-- ==== Sys2Proof/Word.lean ====
section
/-!
DEFINITION. The word types of the core (00_scope.md R9): bytes, 16-bit operand latches, and the one-bit level of a pin.
-/

namespace Sys2Proof

/-- A byte is 8 bits (R9). -/
abbrev Byte := BitVec 8

/-- The width of an operand latch and of a coordinate (R22). -/
abbrev Half := BitVec 16

/-- The level of a pin or of one serial bit: `false` is level 0, `true` is level 1 (R26, R27). -/
abbrev Level := Bool

end Sys2Proof
end

