-- ==== Sys2Proof/Syntax.lean ====
section
/-!
DEFINITION. The instructions: one constructor per row of spec/opcode_table.json, in the table's order.

The table has two levels (30_encoding.md R80, R89). A REQUEST is what the host asks of the core; accepting it loads the
operation's micro-sequence (R38, R39). A WIRE SYMBOL is one element of a micro-sequence: a byte with its `data_command` level,
which the core sends to the panel as one frame (R80, R110, R111).
-/

namespace Sys2Proof

inductive Instr where
  -- requests (R91)
  /-- `SEND_COMMAND b`, code 0x01 (R110) -/
  | sendCommand (b : Byte)
  /-- `SEND_DATA b`, code 0x02 (R111) -/
  | sendData (b : Byte)
  /-- `RESET`, code 0x03 (R120) -/
  | reset
  /-- `WAIT_FREE`, code 0x04 (R121) -/
  | waitFree
  /-- `SET_WINDOW xs, ys, xe, ye`, code 0x05 (R130) -/
  | setWindow (xs ys xe ye : Half)
  /-- `SET_CURSOR x, y`, code 0x06 (R131) -/
  | setCursor (x y : Half)
  /-- `SEND_LUT`, code 0x07 (R140) -/
  | sendLut
  /-- `ON p`, code 0x08 (R151); the whole operand byte, of which only bit 0 is read (R92) -/
  | on (p : Byte)
  /-- `PREPARE_DISPLAY`, code 0x10 (R152) -/
  | prepareDisplay
  /-- `DISPLAY_IMAGE f`, code 0x11 (R153) -/
  | displayImage (f : Byte)
  /-- `DISPLAY_BASE f`, code 0x12 (R154) -/
  | displayBase (f : Byte)
  /-- `DISPLAY_PARTIAL f`, code 0x13 (R155) -/
  | displayPartial (f : Byte)
  /-- `CLEAR color`, code 0x14 (R156) -/
  | clear (color : Byte)
  /-- `POWER_DOWN`, code 0x15 (R157) -/
  | powerDown
  /-- a reserved request code (R92) -/
  | reservedRequest (code : Byte)
  -- wire command symbols (R81)
  /-- 0x01 (R170) -/
  | driverOutputControl
  /-- 0x10 (R171) -/
  | deepSleepMode
  /-- 0x11 (R172) -/
  | dataEntryMode
  /-- 0x12 (R173) -/
  | softwareReset
  /-- 0x20 (R174) -/
  | masterActivation
  /-- 0x21 (R175) -/
  | displayUpdateControl
  /-- 0x22 (R176) -/
  | displayUpdateControl2
  /-- 0x24 (R177) -/
  | writeRamA
  /-- 0x26 (R178) -/
  | writeRamB
  /-- 0x32 (R179) -/
  | writeLut
  /-- 0x37 (R180) -/
  | gateBorderConfig
  /-- 0x3C (R181) -/
  | borderWaveform
  /-- 0x44 (R182) -/
  | setRamXRange
  /-- 0x45 (R183) -/
  | setRamYRange
  /-- 0x4E (R184) -/
  | setRamXCounter
  /-- 0x4F (R185) -/
  | setRamYCounter
  -- the two generic wire symbols
  /-- a data symbol, bit 8 set (R111) -/
  | dataFrame (b : Byte)
  /-- a command symbol whose byte is none of the sixteen named opcodes (R110, R186) -/
  | commandFrameRaw (b : Byte)
deriving DecidableEq, Repr

end Sys2Proof
end

