-- ==== Sys2Proof/WellFormed.lean ====
section
/-!
DEFINITION. Which terms of `Instr` stand for an encoding: the two lowest-priority rows of the opcode table apply only where
no other row does (`RESERVED_REQUEST`: R92; `COMMAND_FRAME_RAW`: R186).
-/

namespace Sys2Proof

/-- The fourteen request codes of R91. -/
def assignedCodes : List Byte :=
  [0x01, 0x02, 0x03, 0x04, 0x05, 0x06, 0x07, 0x08, 0x10, 0x11, 0x12, 0x13, 0x14, 0x15]

/-- The sixteen command opcodes of R81. -/
def panelOpcodes : List Byte :=
  [0x01, 0x10, 0x11, 0x12, 0x20, 0x21, 0x22, 0x24, 0x26, 0x32, 0x37, 0x3C, 0x44, 0x45, 0x4E, 0x4F]

/-- A reserved request carries a code that no operation has (R92); a raw command frame carries a byte that is none of the
named opcodes (R186); everything else is well formed for all its operands (R90: no operand value is refused). -/
def Instr.wellFormed : Instr → Bool
  | .reservedRequest code => !assignedCodes.contains code
  | .commandFrameRaw b => !panelOpcodes.contains b
  | .sendCommand _ | .sendData _ | .reset | .waitFree | .setWindow _ _ _ _ | .setCursor _ _ | .sendLut | .on _
  | .prepareDisplay | .displayImage _ | .displayBase _ | .displayPartial _ | .clear _ | .powerDown => true
  | .driverOutputControl | .deepSleepMode | .dataEntryMode | .softwareReset | .masterActivation
  | .displayUpdateControl | .displayUpdateControl2 | .writeRamA | .writeRamB | .writeLut | .gateBorderConfig
  | .borderWaveform | .setRamXRange | .setRamYRange | .setRamXCounter | .setRamYCounter | .dataFrame _ => true

/-- The rows of format REQ of the opcode table, by constructor. -/
def Instr.isRequest : Instr → Bool
  | .sendCommand _ | .sendData _ | .reset | .waitFree | .setWindow _ _ _ _ | .setCursor _ _ | .sendLut | .on _
  | .prepareDisplay | .displayImage _ | .displayBase _ | .displayPartial _ | .clear _ | .powerDown
  | .reservedRequest _ => true
  | .driverOutputControl | .deepSleepMode | .dataEntryMode | .softwareReset | .masterActivation
  | .displayUpdateControl | .displayUpdateControl2 | .writeRamA | .writeRamB | .writeLut | .gateBorderConfig
  | .borderWaveform | .setRamXRange | .setRamYRange | .setRamXCounter | .setRamYCounter | .dataFrame _
  | .commandFrameRaw _ => false

end Sys2Proof
end

