-- ==== Sys2Proof/Decode.lean ====
section
/-!
DEFINITION. The two decoders of 30_encoding.md (requests: R89 to R94; wire symbols: R80, R81), the encoder, and the host's
`decodeTableWord`.
-/

namespace Sys2Proof

/-- Why a byte sequence is not a request. -/
inductive DecodeError where
  /-- there is no byte 0 -/
  | noBytes
  /-- fewer bytes than the length R94 takes from byte 0 -/
  | tooShort (code : Byte)
deriving DecidableEq, Repr

/-! ## Byte order of an operand (R90) -/

/-- `A[i] <- {byte k+1, byte k}`: the low byte comes first. -/
def joinHalf (lo hi : Byte) : Half := hi ++ lo

/-- `v[7:0]`. -/
def lowByte (v : Half) : Byte := v.setWidth 8

/-- `v[15:8]`. -/
def highByte (v : Half) : Byte := (v >>> (8 : Nat)).setWidth 8

/-! ## Requests -/

/-- The length of a request in bytes, from byte 0 (R91, R94); a reserved code has length 1 (R92). -/
def requestLength (code : Byte) : Nat :=
  if code = 0x05 then 9
  else if code = 0x06 then 5
  else if code = 0x01 ∨ code = 0x02 ∨ code = 0x08 ∨ code = 0x11 ∨ code = 0x12 ∨ code = 0x13 ∨ code = 0x14 then 2
  else 1

/-- What reads the operands of a request from the bytes after its code. -/
abbrev OperandDecoder := List Byte → Except DecodeError (Instr × List Byte)

/-- No operand. -/
def noOperand (i : Instr) : OperandDecoder := fun rest => .ok (i, rest)

/-- One operand byte. -/
def byteOperand (code : Byte) (mk : Byte → Instr) : OperandDecoder
  | b :: rest => .ok (mk b, rest)
  | [] => .error (.tooShort code)

/-- `SET_WINDOW`: four 16-bit operands, each low byte first (R90, R91). -/
def windowOperands : OperandDecoder
  | s :: s' :: t :: t' :: e :: e' :: f :: f' :: rest =>
    .ok (.setWindow (joinHalf s s') (joinHalf t t') (joinHalf e e') (joinHalf f f'), rest)
  | _ => .error (.tooShort 0x05)

/-- `SET_CURSOR`: two 16-bit operands, each low byte first (R90, R91). -/
def cursorOperands : OperandDecoder
  | x :: x' :: y :: y' :: rest => .ok (.setCursor (joinHalf x x') (joinHalf y y'), rest)
  | _ => .error (.tooShort 0x06)

/-- The request code map (R91), row by row. -/
def requestRows : List (Byte × OperandDecoder) :=
  [(0x01, byteOperand 0x01 .sendCommand),
   (0x02, byteOperand 0x02 .sendData),
   (0x03, noOperand .reset),
   (0x04, noOperand .waitFree),
   (0x05, windowOperands),
   (0x06, cursorOperands),
   (0x07, noOperand .sendLut),
   (0x08, byteOperand 0x08 .on),
   (0x10, noOperand .prepareDisplay),
   (0x11, byteOperand 0x11 .displayImage),
   (0x12, byteOperand 0x12 .displayBase),
   (0x13, byteOperand 0x13 .displayPartial),
   (0x14, byteOperand 0x14 .clear),
   (0x15, noOperand .powerDown)]

/-- The request at the head of a byte stream and the bytes after it (R89 to R94); a code of no row is a reserved request of one
byte (R92). -/
def decodeRequest : List Byte → Except DecodeError (Instr × List Byte)
  | [] => .error .noBytes
  | code :: rest =>
    match requestRows.lookup code with
    | some operands => operands rest
    | none => .ok (.reservedRequest code, rest)

/-! ## Wire symbols -/

/-- The symbol `{0, b}` of a command frame (R80, R110). -/
def commandSymbol (b : Byte) : BitVec 9 := b.setWidth 9

/-- The symbol `{1, b}` of a data frame (R80, R111). -/
def dataSymbol (b : Byte) : BitVec 9 := 0x100 ||| b.setWidth 9

/-- Bit 8: the level of `data_command` during the transfer (R80). -/
def symbolLevel (w : BitVec 9) : Level := w.getLsbD 8

/-- Bits 7:0: the byte of the symbol (R80). -/
def symbolByte (w : BitVec 9) : Byte := w.setWidth 8

/-- The command opcodes (R81), row by row. -/
def panelRows : List (Byte × Instr) :=
  [(0x01, .driverOutputControl),
   (0x10, .deepSleepMode),
   (0x11, .dataEntryMode),
   (0x12, .softwareReset),
   (0x20, .masterActivation),
   (0x21, .displayUpdateControl),
   (0x22, .displayUpdateControl2),
   (0x24, .writeRamA),
   (0x26, .writeRamB),
   (0x32, .writeLut),
   (0x37, .gateBorderConfig),
   (0x3C, .borderWaveform),
   (0x44, .setRamXRange),
   (0x45, .setRamYRange),
   (0x4E, .setRamXCounter),
   (0x4F, .setRamYCounter)]

/-- The table row a wire symbol belongs to (R80, R81). Total: every symbol can be sent (R93). -/
def decodeSymbol (w : BitVec 9) : Instr :=
  if symbolLevel w then .dataFrame (symbolByte w)
  else (panelRows.lookup (symbolByte w)).getD (.commandFrameRaw (symbolByte w))

/-! ## The encoder -/

/-- What an instruction is encoded as: the bytes of a request, or one wire symbol. -/
inductive Encoded where
  | request (bytes : List Byte)
  | symbol (w : BitVec 9)
deriving DecidableEq, Repr

/-- The encoding tables of R91 and R81. -/
def encode : Instr → Encoded
  | .sendCommand b => .request [0x01, b]
  | .sendData b => .request [0x02, b]
  | .reset => .request [0x03]
  | .waitFree => .request [0x04]
  | .setWindow xs ys xe ye =>
    .request [0x05, lowByte xs, highByte xs, lowByte ys, highByte ys, lowByte xe, highByte xe, lowByte ye, highByte ye]
  | .setCursor x y => .request [0x06, lowByte x, highByte x, lowByte y, highByte y]
  | .sendLut => .request [0x07]
  | .on p => .request [0x08, p]
  | .prepareDisplay => .request [0x10]
  | .displayImage f => .request [0x11, f]
  | .displayBase f => .request [0x12, f]
  | .displayPartial f => .request [0x13, f]
  | .clear color => .request [0x14, color]
  | .powerDown => .request [0x15]
  | .reservedRequest code => .request [code]
  | .driverOutputControl => .symbol 0x001
  | .deepSleepMode => .symbol 0x010
  | .dataEntryMode => .symbol 0x011
  | .softwareReset => .symbol 0x012
  | .masterActivation => .symbol 0x020
  | .displayUpdateControl => .symbol 0x021
  | .displayUpdateControl2 => .symbol 0x022
  | .writeRamA => .symbol 0x024
  | .writeRamB => .symbol 0x026
  | .writeLut => .symbol 0x032
  | .gateBorderConfig => .symbol 0x037
  | .borderWaveform => .symbol 0x03C
  | .setRamXRange => .symbol 0x044
  | .setRamYRange => .symbol 0x045
  | .setRamXCounter => .symbol 0x04E
  | .setRamYCounter => .symbol 0x04F
  | .dataFrame b => .symbol (dataSymbol b)
  | .commandFrameRaw b => .symbol (commandSymbol b)

/-- Decoding a whole encoding: a request must end where its bytes end. -/
def decode : Encoded → Option Instr
  | .symbol w => some (decodeSymbol w)
  | .request bytes =>
    match decodeRequest bytes with
    | .ok (i, []) => some i
    | .ok (_, _ :: _) => none
    | .error _ => none

/-! ## The host's view of the opcode table (assumption 9) -/

/-- `n` bytes of `w`, least significant first: the first byte of a request is the table's bits 7:0. -/
def tableBytes : Nat → Nat → List Byte
  | 0, _ => []
  | n + 1, w => BitVec.ofNat 8 w :: tableBytes n (w / 256)

/-- The bytes of the request in a table word: as many as its code has (R94), zero above the bits the table gives. -/
def tableRequest (nbits w : Nat) : List Byte :=
  tableBytes (requestLength (BitVec.ofNat 8 w)) (w % 2 ^ nbits)

/-- Whether a word of the table is read as a wire symbol: it has 9 bits; or it has two bytes of which only 9 bits are used
and the first is no code of a two-byte or longer request. -/
def tableIsSymbol (nbits w : Nat) : Bool :=
  nbits == 9 || (nbits == 16 && decide (w < 512) && requestLength (BitVec.ofNat 8 w) == 1)

/-- The instruction the decoders read from a word of the opcode table (assumption 9). -/
def decodeTableWord (nbits w : Nat) : Option Instr :=
  if tableIsSymbol nbits w then
    if w < 512 then some (decodeSymbol (BitVec.ofNat 9 w)) else none
  else
    match decodeRequest (tableRequest nbits w) with
    | .ok (i, _) => some i
    | .error _ => none

end Sys2Proof
end

