-- ==== Sys2Proof/Config.lean ====
section
/-!
DEFINITION. The implementation parameters of 00_scope.md R5 (fixed at construction, never written by a step: R32), and the
free values: constants without a body, whose value no proof can use.
-/

namespace Sys2Proof

/-- `ORIENT` (R5, R6). -/
inductive Orientation where
  | portrait
  | landscape
deriving DecidableEq, Repr

/-- The construction arguments and open parameters of R5.
`WIDTH`, `HEIGHT`, `ROW_BYTES` and `BUF_LEN` are derived from them (`Config.width` and its neighbours in Machine/Operands.lean);
`POLL_MS` and `SPI_HZ` have one value each (`pollMs`, `spiHz` there). -/
structure Config where
  /-- construction argument `W0` -/
  w0 : Nat
  /-- construction argument `H0` -/
  h0 : Nat
  /-- construction argument `ORIENT` -/
  orient : Orientation
  /-- the waveform table `LUT[0..152]`, in ascending order (R36, R142) -/
  lut : Vector Byte 153
  /-- `DOC[0]`, first data byte of command 0x01 -/
  doc0 : Byte
  /-- `DOC[1]` -/
  doc1 : Byte
  /-- `DOC[2]` -/
  doc2 : Byte
  /-- `DEM`, the data byte of command 0x11 -/
  dem : Byte
  /-- `DUC[0]`, first data byte of command 0x21 -/
  duc0 : Byte
  /-- `DUC[1]` -/
  duc1 : Byte
  /-- `POLL_LIMIT`: `none` is the source's unbounded poll (R124) -/
  pollLimit : Option Nat
  /-- `CS_ACTIVE`, the active level of `chip_select` -/
  csActive : Level
deriving DecidableEq, Repr

/-- FREE VALUE (assumption 3). The 153 bytes of the waveform table are in no source (R36, 91 N3): byte `k` of it. -/
opaque Config.freeLut : Nat → Byte

/-- FREE VALUE (assumption 3). The data bytes of commands 0x01, 0x11 and 0x21 are in no source (91 N4):
0, 1, 2 are `DOC`, 3 is `DEM`, 4 and 5 are `DUC`. -/
opaque Config.freeInit : Nat → Byte

/-- FREE VALUE (assumption 5). The level the panel presents to the `n`-th draw, used where the state's list of samples is
used up: "an input the environment chooses freely at each sample" (R33). -/
opaque Config.freeBusy : Nat → Level

/-- FREE VALUE (assumption 6). Which of the bytes a raced framebuffer read admits it yields, for the `n`-th draw (R68). -/
opaque Config.freeRace : Nat → Nat

/-- FREE VALUE (assumption 4). The content of latch `A[i]` after the core reset of draw `n` (R42: no value). -/
opaque Config.freeLatch : Nat → Nat → Half

/-- FREE VALUE (assumption 4). The content of `OP` after the core reset of draw `n` (R42: no value). -/
opaque Config.freeOp : Nat → Byte

/-- FREE VALUE (assumption 4). The content of `ROW` after the core reset of draw `n` (R42: no value). -/
opaque Config.freeRow : Nat → BitVec 16

/-- FREE VALUE (assumption 4). The content of `COL` after the core reset of draw `n` (R42: no value). -/
opaque Config.freeCol : Nat → BitVec 9

/-- FREE VALUE (assumption 4). The level of `MOSI` after the core reset of draw `n` (R42: no value). -/
opaque Config.freeMosi : Nat → Level

/-- FREE VALUE (assumption 17). The level the host sees on bit `k` of `PINS` while that bit's latch holds no value (93 U12: "any
value"), `freePin n m k` for `n` draws and `m` events so far. -/
opaque Config.freePin : Nat → Nat → Nat → Level

/-- The configuration `State.reset` is built with (assumption 2): the source's one example geometry, 128 by 296 portrait,
the default poll and chip-select level of R5, and free values for the bytes the spec leaves open. -/
def Config.example128x296 : Config where
  w0 := 128
  h0 := 296
  orient := .portrait
  lut := ⟨⟨(List.range 153).map Config.freeLut⟩, by simp⟩
  doc0 := Config.freeInit 0
  doc1 := Config.freeInit 1
  doc2 := Config.freeInit 2
  dem := Config.freeInit 3
  duc0 := Config.freeInit 4
  duc1 := Config.freeInit 5
  pollLimit := none
  csActive := false

end Sys2Proof
end

