-- ==== Sys2Proof/Machine/State.lean ====
section
/-!
DEFINITION. The state of the core (10_state.md), of the framebuffer it reads, and of the environment around it (the host's
requests and other moves, the panel's busy levels); the wire events; the reasons a step can stop; and the state after reset.
-/

namespace Sys2Proof.Machine

/-- The wire events of 00_scope.md R11. -/
inductive Event where
  /-- `RST(l)`: the core drives the `reset` output to `l` -/
  | rst (l : Level)
  /-- `DC(l)`: the core drives the `data_command` output to `l` -/
  | dc (l : Level)
  /-- `CS(a)` for `true`, `CS(i)` for `false`: `chip_select` goes to its active or its inactive level -/
  | cs (active : Bool)
  /-- `SPI(b)`: one byte is shifted out -/
  | spi (b : Byte)
  /-- `DELAY(n)`: at least `n` milliseconds pass -/
  | delay (ms : Nat)
  /-- `BUSY?(l)`: the `busy` input is read once and is `l` -/
  | busy (l : Level)
  /-- `FB?(a, v)`: framebuffer byte address `a` is read and holds `v` -/
  | fbRead (a : Nat) (v : Byte)
deriving DecidableEq, Repr

/-- `MACRO` (R21). The value 3 of its 2 bits is never produced. -/
inductive MacroState where
  | uninitialized
  | active
  | deepSleep
deriving DecidableEq, Repr

/-- The completion codes of R191. -/
inductive Completion where
  | ok
  | missingImage
  | syncTimeout
  | illegalRequest
  /-- reserved, never produced (R194) -/
  | transportFailure
deriving DecidableEq, Repr

/-- Where a RAM burst takes its bytes from (R150). -/
inductive BurstSource where
  | framebuffer
  | constant (c : Byte)
deriving DecidableEq, Repr

/-- The elements of a micro-sequence: what is still to be done of the operation in progress (R23: "a model may represent them
as a list of remaining micro-operations"). -/
inductive Micro where
  /-- send one frame (R80) -/
  | symbol (w : BitVec 9)
  /-- the rest of a frame after its `DC` event: `CS(a)` or `CS(i)` -/
  | cs (active : Bool)
  /-- the rest of a frame: `SPI(b)` -/
  | spi (b : Byte)
  /-- the legality check of R39 and R196 -/
  | legality
  /-- the absent-image test of R158 -/
  | needImage
  /-- `emit(RST(l))` -/
  | rst (l : Level)
  /-- `emit(DELAY(n))` -/
  | delay (ms : Nat)
  /-- `call WAIT_FREE`: its first line, `POLLS <- 0` (R121) -/
  | waitFree
  /-- the poll loop of R121 from its sample -/
  | poll
  /-- the poll loop of R121 from its delay -/
  | pollDelay
  /-- the loop of `BURST` from its start (R150) -/
  | burst (src : BurstSource)
  /-- the body of the loop of `BURST` at the current `ROW` and `COL` -/
  | burstByte (src : BurstSource)
  /-- the advance of the loop of `BURST` -/
  | burstNext (src : BurstSource)
deriving DecidableEq, Repr

/-- What the host can do besides letting the core run and presenting its next request when `READY = 1` (R20, R38, R68, R220).
Each stands for one move made before the core's next step. -/
inductive HostMove where
  /-- the host does nothing during one step of the core -/
  | letRun
  /-- the host presents a request now, whatever `READY` is (R38) -/
  | present (bytes : List Byte)
  /-- the host writes a framebuffer byte now, whatever `READY` is (R68) -/
  | writeFb (a : Nat) (v : Byte)
  /-- the core's reset input is asserted (R220) -/
  | coreReset
deriving DecidableEq, Repr

/-- Faults: the machine stops. -/
inductive Fault where
  /-- Raised by a framebuffer read of the core or write of the host at an address that is not below `BUF_LEN`, where nothing
  is mapped (R62, R72). No read of a run from reset raises it (R74). Safe: the model stops. -/
  | noSuchFramebufferByte (a : Nat)
deriving DecidableEq, Repr

/-- Refusals: the model has no meaning to give. -/
inductive Refusal where
  /-- Raised only by an arm of `exec` for an instruction without a meaning yet. Safe. -/
  | notModelled (mnemonic : String)
  /-- Raised by `step` in a state whose configuration breaks R5 or R6: "is not a configuration of this hardware and a model
  refuses it". Safe. -/
  | illegalConfiguration
  /-- Raised by `step` when the bytes the host presents at `READY = 1` are not one whole request (R89: the whole request is
  presented at once). Safe. -/
  | malformedRequest
deriving DecidableEq, Repr

/-- The state. Fields marked MODEL are the model's own: the environment's, or bookkeeping; the rest is 10_state.md's. -/
structure State where
  /-- the parameters (R32); no step writes them -/
  cfg : Config
  -- control state
  /-- `MACRO` (R21) -/
  macroState : MacroState
  /-- `A[0]` (R22) -/
  a0 : Half
  /-- `A[1]` (R22) -/
  a1 : Half
  /-- `A[2]` (R22) -/
  a2 : Half
  /-- `A[3]` (R22) -/
  a3 : Half
  /-- `OP` (R23) -/
  op : Byte
  /-- `SEQ_PC` (R23) -/
  seqPc : Nat
  /-- the remaining micro-operations of the operation in progress (R23) -/
  todo : List Micro
  /-- `ROW` (R24) -/
  row : BitVec 16
  /-- `COL` (R24) -/
  col : BitVec 9
  /-- `POLLS` (R25) -/
  polls : Nat
  -- pins
  /-- the `RST` latch (R26); `none` while it holds no value (R42, assumption 4) -/
  rst : Option Level
  /-- the `CS` latch (R26), as a pin level -/
  cs : Level
  /-- the `DC` latch (R26); `none` while it holds no value (R42, assumption 4) -/
  dc : Option Level
  /-- `SCK` (R27) -/
  sck : Level
  /-- `MOSI` (R27) -/
  mosi : Level
  /-- the last sampled `busy` level, bit 3 of `PINS` (R31) -/
  lastBusy : Level
  -- status
  /-- `READY` (R28) -/
  ready : Bool
  /-- `RESULT` (R29) -/
  result : Completion
  /-- `EFLAGS` (R30) -/
  eflags : BitVec 4
  -- memory and trace
  /-- `FB` (R35): the bytes that are not 0x00, by rising address -/
  fb : List Host.Cell
  /-- the wire trace (R11), newest event first -/
  events : List Event
  -- MODEL
  /-- MODEL: bytes that host writes made during the operation in progress replaced, newest first (R68) -/
  raced : List Host.Cell
  /-- MODEL: a core reset fell inside a frame and no `PREPARE_DISPLAY` has completed since (R220, 93 U15) -/
  tainted : Bool
  /-- MODEL: the levels the panel presents to the next samples (R33); when used up, free values follow -/
  samples : List Level
  /-- MODEL: the host's request bytes not yet presented, each request presented when `READY = 1` (R246) -/
  port : List Byte
  /-- MODEL: the host's other moves, in order (R20) -/
  moves : List HostMove
  /-- MODEL: how many free values have been drawn -/
  draws : Nat
deriving DecidableEq, Repr

/-- The wire trace in order, oldest event first (R11). -/
def State.trace (s : State) : List Event := s.events.reverse

/-- The state after core reset (R42) of a core built with `cfg`, its values without a reset value taken from draw `n`
(assumption 4). The environment's parts are empty. -/
def State.afterReset (cfg : Config) (n : Nat) : State where
  cfg := cfg
  macroState := .uninitialized
  a0 := Config.freeLatch n 0
  a1 := Config.freeLatch n 1
  a2 := Config.freeLatch n 2
  a3 := Config.freeLatch n 3
  op := Config.freeOp n
  seqPc := 0
  todo := []
  row := Config.freeRow n
  col := Config.freeCol n
  polls := 0
  rst := none
  cs := !cfg.csActive
  dc := none
  sck := false
  mosi := Config.freeMosi n
  lastBusy := false
  ready := true
  result := .ok
  eflags := 0
  fb := []
  events := []
  raced := []
  tainted := false
  samples := []
  port := []
  moves := []
  draws := n + 1

/-- The machine right after reset (R42, R221), with the configuration of assumption 2 and a framebuffer nothing has written
(assumption 7). -/
def State.reset : State := State.afterReset Config.example128x296 0

end Sys2Proof.Machine
end

