-- ==== Sys2Proof/Machine/Operands.lean ====
section
/-!
DEFINITION. What the core computes from its parameters and operands (30_encoding.md R83 to R86, R88, R90, R98; 00_scope.md R6, R7).
-/

namespace Sys2Proof

/-! ## Derived parameters -/

/-- `POLL_MS` (R5, R124: "the default poll interval (10ms)"). -/
def pollMs : Nat := 10

/-- `SPI_HZ` (R5): recorded, not used by any rule. -/
def spiHz : Nat := 4000000

/-- `WIDTH` (R6). -/
def Config.width (c : Config) : Nat :=
  match c.orient with
  | .portrait => c.w0
  | .landscape => c.h0

/-- `HEIGHT` (R6). -/
def Config.height (c : Config) : Nat :=
  match c.orient with
  | .portrait => c.h0
  | .landscape => c.w0

/-- `ROW_BYTES` (R7). -/
def Config.rowBytes (c : Config) : Nat := c.width / 8

/-- `BUF_LEN` (R7). -/
def Config.bufLen (c : Config) : Nat := c.width * c.height / 8

/-- R6: both dimensions divisible by 8 and within the bounds; R5: a poll limit is at least 1. -/
abbrev Config.Legal (c : Config) : Prop :=
  c.width % 8 = 0 ∧ c.height % 8 = 0 ∧ 8 ≤ c.width ∧ c.width ≤ 2048 ∧ 8 ≤ c.height ∧ c.height ≤ 65536 ∧
    c.pollLimit ≠ some 0

/-- The inactive level of `chip_select`, `1 - CS_ACTIVE` (R26). -/
def Config.csInactive (c : Config) : Level := !c.csActive

/-- `WIDTH - 1` as a coordinate (R98 (3), R133). -/
def Config.lastX (c : Config) : Half := BitVec.ofNat 16 (c.width - 1)

/-- `HEIGHT - 1` as a coordinate (R98 (3), R133). -/
def Config.lastY (c : Config) : Half := BitVec.ofNat 16 (c.height - 1)

namespace Machine

/-! ## Operand transforms -/

/-- An 8-bit request operand in a 16-bit latch: `zext_16` (R90). -/
def zext16 (b : Byte) : Half := b.setWidth 16

/-- A one-bit operand: bit 0 of its latch (R90). -/
def bitOperand (v : Half) : Bool := v.getLsbD 0

/-- A window X coordinate on the wire: `(x >> 3)[7:0]` (R83). -/
def windowX (x : Half) : Byte := (x >>> (3 : Nat)).setWidth 8

/-- A cursor X coordinate on the wire: `x[7:0]` (R85). -/
def cursorX (x : Half) : Byte := lowByte x

/-- The activation byte of `ON` (R151, R86). -/
def activationByte (isPartial : Bool) : Byte := if isPartial then 0x0F else 0xF7

/-- The framebuffer address of column-byte `col` of row `row` (R61). -/
def fbAddress (c : Config) (row : BitVec 16) (col : BitVec 9) : Nat := col.toNat + row.toNat * c.rowBytes

/-! ## Serial signalling of one byte (R88) -/

/-- A write to one of the two serial outputs. -/
inductive SerialWrite where
  | mosi (l : Level)
  | sck (l : Level)
deriving DecidableEq, Repr

/-- One bit: `MOSI` takes its level, then `SCK` rises and falls. -/
def spiBit (l : Level) : List SerialWrite := [.mosi l, .sck true, .sck false]

/-- The 24 writes of `SPI(b)`: bits 7 down to 0. -/
def spiWrites (b : Byte) : List SerialWrite :=
  [7, 6, 5, 4, 3, 2, 1, 0].flatMap fun k => spiBit (b.getLsbD k)

/-- The level `SCK` is left at by a list of writes. -/
def sckAfter : List SerialWrite → Level → Level
  | [], l => l
  | .sck l :: ws, _ => sckAfter ws l
  | .mosi _ :: ws, l => sckAfter ws l

/-- The level `MOSI` is left at by a list of writes. -/
def mosiAfter : List SerialWrite → Level → Level
  | [], l => l
  | .mosi l :: ws, _ => mosiAfter ws l
  | .sck _ :: ws, l => mosiAfter ws l

/-- What a panel that samples `MOSI` on each rising edge of `SCK` sees, from the levels `sck` and `mosi` before the writes. -/
def risingSamples : List SerialWrite → Level → Level → List Level
  | [], _, _ => []
  | .mosi l :: ws, sck, _ => risingSamples ws sck l
  | .sck true :: ws, false, mosi => mosi :: risingSamples ws true mosi
  | .sck l :: ws, _, mosi => risingSamples ws l mosi

end Machine

end Sys2Proof
end

