-- ==== Sys2Proof/Machine/Flags.lean ====
section
/-!
DEFINITION. The status the host can read and how it is computed: encodings of `MACRO` and `RESULT`, the `EFLAGS` bit of a
completion code, the legality table, the next macro-state, and the five status registers (10_state.md R21, R28 to R31, R41;
60_exceptions.md R191, R196).
-/

namespace Sys2Proof.Machine

/-- The 2-bit encoding of `MACRO` (R21). -/
def MacroState.code : MacroState → BitVec 2
  | .uninitialized => 0
  | .active => 1
  | .deepSleep => 2

/-- The 3-bit completion code (R29, R191). -/
def Completion.code : Completion → BitVec 3
  | .ok => 0
  | .missingImage => 1
  | .syncTimeout => 2
  | .illegalRequest => 3
  | .transportFailure => 4

/-- The bit of `EFLAGS` that a completion sets: bit `c - 1` for a code `c` in 1..3 (R30); bit 3 is hardwired 0. -/
def Completion.flag : Completion → BitVec 4
  | .ok => 0b0000
  | .missingImage => 0b0001
  | .syncTimeout => 0b0010
  | .illegalRequest => 0b0100
  | .transportFailure => 0b0000

/-- The legality table of R196, by request code: `RESET`, `WAIT_FREE` and `PREPARE_DISPLAY` are legal everywhere, the other
assigned codes in `Active`, a reserved code nowhere. -/
def legalIn (code : Byte) (m : MacroState) : Bool :=
  if code = 0x03 ∨ code = 0x04 ∨ code = 0x10 then true
  else assignedCodes.contains code && decide (m = .active)

/-- The macro-state after an `OK` completion (R41). -/
def nextMacroState (code : Byte) (m : MacroState) : MacroState :=
  if code = 0x10 then .active
  else if code = 0x03 then
    match m with
    | .uninitialized => .uninitialized
    | .active => .active
    | .deepSleep => .active
  else if code = 0x15 then .deepSleep
  else m

/-! ## Status registers (R31) -/

/-- Register 0, `STATUS`: bit 0 `READY`, bits 2:1 `MACRO`, bits 5:3 `RESULT`, bits 7:6 zero. -/
def State.statusRegister (s : State) : BitVec 8 :=
  (0 : BitVec 2) ++ s.result.code ++ s.macroState.code ++ BitVec.ofBool s.ready

/-- Register 1, `EFLAGS`: bits 2:0 as R30, bit 3 hardwired 0, bits 7:4 zero. -/
def State.eflagsRegister (s : State) : BitVec 8 := s.eflags.setWidth 8 &&& 0x07

/-- Register 2, `WIDTH`: the constant `WIDTH - 1`. -/
def State.widthRegister (s : State) : BitVec 16 := s.cfg.lastX

/-- Register 3, `HEIGHT`: the constant `HEIGHT - 1`. -/
def State.heightRegister (s : State) : BitVec 16 := s.cfg.lastY

/-- What the host sees on bit `k` of `PINS` of a latch: its level; while it holds no value, a free one, on which no claim can
be based (R31, 93 U12, assumption 17). -/
def State.shownLevel (s : State) (k : Nat) (latch : Option Level) : Level :=
  latch.getD (Config.freePin s.draws s.events.length k)

/-- Register 4, `PINS`: bit 0 `RST`, bit 1 `CS`, bit 2 `DC`, bit 3 the last sampled `busy` level, bits 7:4 zero. -/
def State.pinsRegister (s : State) : BitVec 8 :=
  (0 : BitVec 4) ++ BitVec.ofBool s.lastBusy ++ BitVec.ofBool (s.shownLevel 2 s.dc) ++ BitVec.ofBool s.cs ++
    BitVec.ofBool (s.shownLevel 0 s.rst)

/-- The host's read of a status register by number: possible at any time, without side effect; there is no other number. -/
def State.readRegister (s : State) (number : Nat) : Option (BitVec 16) :=
  match number with
  | 0 => some (s.statusRegister.setWidth 16)
  | 1 => some (s.eflagsRegister.setWidth 16)
  | 2 => some s.widthRegister
  | 3 => some s.heightRegister
  | 4 => some (s.pinsRegister.setWidth 16)
  | _ => none

end Sys2Proof.Machine
end

