-- ==== Sys2Proof/Machine/Ops.lean ====
section
/-!
DEFINITION. The named operations over memory, pins and registers: the framebuffer, emitting a wire event, sampling `busy`,
accepting and completing a request, core reset, and starting a frame.
-/

namespace Sys2Proof.Machine

/-- What a step answers. -/
abbrev StepOutcome := Host.Outcome State Fault Refusal

/-! ## The framebuffer (R35, R60, R62, R68) -/

/-- The framebuffer's contents: address and byte, by rising address, without the bytes an unlisted address reads as. -/
abbrev Memory := List Host.Cell

/-- What a framebuffer byte that nothing has written reads as (assumption 7). -/
def Memory.unwritten : Byte := 0x00

/-- The canonical form. -/
abbrev Memory.wf (m : Memory) : Prop :=
  m.Pairwise (fun c d => c.1 < d.1) ∧ ∀ c ∈ m, c.2 ≠ Memory.unwritten

/-- The byte at an address. -/
def Memory.read : Memory → Nat → Byte
  | [], _ => Memory.unwritten
  | (k, v) :: m, a => if k = a then v else Memory.read m a

/-- A byte in front of cells at higher addresses, left out where an unlisted address reads as it. -/
def Memory.cons (a : Nat) (v : Byte) (m : Memory) : Memory :=
  if v = Memory.unwritten then m else (a, v) :: m

/-- Write one byte, keeping the canonical form. -/
def Memory.write : Memory → Nat → Byte → Memory
  | [], a, v => Memory.cons a v []
  | (k, w) :: m, a, v =>
    if a < k then Memory.cons a v ((k, w) :: m)
    else if a = k then Memory.cons a v m
    else (k, w) :: Memory.write m a v

/-! ## Wire events (R11, R26, R27) -/

/-- The `RST` latch after an event. -/
def Event.rstAfter : Event → Option Level → Option Level
  | .rst l, _ => some l
  | _, old => old

/-- The `DC` latch after an event. -/
def Event.dcAfter : Event → Option Level → Option Level
  | .dc l, _ => some l
  | _, old => old

/-- The `CS` latch after an event: `CS(a)` writes `CS_ACTIVE`, `CS(i)` writes `1 - CS_ACTIVE`. -/
def Event.csAfter (c : Config) : Event → Level → Level
  | .cs true, _ => c.csActive
  | .cs false, _ => c.csInactive
  | _, old => old

/-- `SCK` after an event: `SPI(b)` makes the writes of R88. -/
def Event.sckAfter : Event → Level → Level
  | .spi b, old => Machine.sckAfter (spiWrites b) old
  | _, old => old

/-- `MOSI` after an event: `SPI(b)` makes the writes of R88. -/
def Event.mosiAfter : Event → Level → Level
  | .spi b, old => Machine.mosiAfter (spiWrites b) old
  | _, old => old

/-- The last sampled `busy` level after an event (R31). -/
def Event.lastBusyAfter : Event → Level → Level
  | .busy l, _ => l
  | _, old => old

/-- `emit(e)` (R10): the event joins the trace, takes effect on the pins, and `SEQ_PC` advances by one (R23). -/
def State.emit (e : Event) (s : State) : State :=
  { s with
    events := e :: s.events
    seqPc := s.seqPc + 1
    rst := e.rstAfter s.rst
    dc := e.dcAfter s.dc
    cs := e.csAfter s.cfg s.cs
    sck := e.sckAfter s.sck
    mosi := e.mosiAfter s.mosi
    lastBusy := e.lastBusyAfter s.lastBusy }

/-- The state with another micro-sequence. -/
def State.withTodo (ms : List Micro) (s : State) : State := { s with todo := ms }

/-- Micro-operations put in front of what remains of the operation. -/
def State.prepend (ms : List Micro) (s : State) : State := s.withTodo (ms ++ s.todo)

/-- Start the frame of a wire symbol (R80, R110, R111): `DC` takes the symbol's level; `CS(a) SPI(b) CS(i)` follow. -/
def State.startFrame (level : Level) (b : Byte) (s : State) : State :=
  (s.emit (.dc level)).prepend [.cs true, .spi b, .cs false]

/-! ## Free inputs -/

/-- The level the panel presents to the next sample (R33). -/
def State.nextLevel (s : State) : Level :=
  match s.samples with
  | l :: _ => l
  | [] => Config.freeBusy s.draws

/-- The state once that level has been taken. -/
def State.takeLevel (s : State) : State :=
  match s.samples with
  | _ :: ls => { s with samples := ls }
  | [] => { s with draws := s.draws + 1 }

/-- `sample()` (R10): the level is taken and `BUSY?` of it emitted. -/
def State.sample (s : State) : State := s.takeLevel.emit (.busy s.nextLevel)

/-- The bytes at `a` that host writes made during this operation replaced (R68). -/
def State.racedAt (s : State) (a : Nat) : List Byte :=
  (s.raced.filter fun c => c.1 == a).map fun c => c.2

/-- The byte a framebuffer read at `a` yields: the byte held there; after a host write during the operation, the new byte or
any it replaced, freely (R68). -/
def State.fbValue (s : State) (a : Nat) : Byte :=
  let held := Memory.read s.fb a
  match s.racedAt a with
  | [] => held
  | olds => (held :: olds).getD (Config.freeRace s.draws % (olds.length + 1)) held

/-- The free values a framebuffer read at `a` draws. -/
def State.fbDraws (s : State) (a : Nat) : Nat :=
  match s.racedAt a with
  | [] => 0
  | _ :: _ => 1

/-- `MemRead(FB, a, 1)` (R62): `FB?(a, v)` is emitted; the byte it yields is `s.fbValue a`. -/
def State.readFb (a : Nat) (s : State) : State :=
  { s.emit (.fbRead a (s.fbValue a)) with draws := s.draws + s.fbDraws a }

/-! ## The life of a request (R38, R40, R198) -/

/-- Acceptance (R38), as one step: `READY <- 0`, `OP <- c`, each latch the request has an operand for takes it, `SEQ_PC <- 0`.
A latch without an operand is left unchanged (R22). -/
def State.accept (code : Byte) (o0 o1 o2 o3 : Option Half) (s : State) : State :=
  { s with
    ready := false
    op := code
    a0 := o0.getD s.a0
    a1 := o1.getD s.a1
    a2 := o2.getD s.a2
    a3 := o3.getD s.a3
    seqPc := 0 }

/-- A request is presented: accepted at `READY = 1`, its micro-sequence read from the latches it wrote, behind the legality
check of R39; at `READY = 0` it "has no effect and is lost" (R38). -/
def present (code : Byte) (o0 o1 o2 o3 : Option Half) (body : State → List Micro) (s : State) : StepOutcome :=
  if s.ready then
    let t := s.accept code o0 o1 o2 o3
    .next (t.withTodo (.legality :: body t))
  else .next s

/-- Completion with code `k` (R40), as one step. It is also `raise k` (R198), the taking of this core's exceptions: nothing is
saved, no mode changes, the rest of the micro-sequence is dropped, and the core waits for the next request. -/
def State.complete (k : Completion) (s : State) : State :=
  { s with
    result := k
    eflags := s.eflags ||| k.flag
    macroState := if k = .ok then nextMacroState s.op s.macroState else s.macroState
    ready := true
    todo := []
    raced := []
    tainted := s.tainted && !(decide (k = .ok) && decide (s.op = 0x10)) }

/-! There is no return from an exception: "there is no handler, so there is no return instruction and nothing to restore" (R199). -/

/-! ## The host's other moves -/

/-- Core reset (R220): every element of the core at its value of R42, the operation in progress abandoned without a completion
code. The framebuffer, the host's own lists and the panel's levels are not the core's and stay. Inside a frame it taints the
trace (93 U15, assumption 12). -/
def State.coreReset (s : State) : State :=
  { State.afterReset s.cfg s.draws with
    fb := s.fb
    samples := s.samples
    port := s.port
    moves := s.moves
    tainted := s.tainted || s.cs == s.cfg.csActive }

/-- The host writes a framebuffer byte (R68): during an operation the byte it replaces stays readable for the rest of it. -/
def hostWriteFb (a : Nat) (v : Byte) (s : State) : StepOutcome :=
  if a < s.cfg.bufLen then
    .next { s with
      fb := Memory.write s.fb a v
      raced := if s.ready then s.raced else (a, Memory.read s.fb a) :: s.raced }
  else .fault (.noSuchFramebufferByte a)

end Sys2Proof.Machine
end

