-- ==== Sys2Proof/Machine/Sequences.lean ====
section
/-!
DEFINITION. The hard-wired micro-sequences (30_encoding.md R96 and the rules of files 40 to 44), as lists of micro-operations.
A helper that the rules `call` is one list here, used in place.
-/

namespace Sys2Proof.Machine

/-- `C(b)` (R110). -/
def command (b : Byte) : Micro := .symbol (commandSymbol b)

/-- `D(b)` (R111). -/
def data (b : Byte) : Micro := .symbol (dataSymbol b)

/-- The reset pulse of `RESET` (R120). -/
def resetPulse : List Micro :=
  [.rst true, .delay 50, .rst false, .delay 2, .rst true, .delay 50]

/-- `SOFT_PULSE` (R122). -/
def softPulse : List Micro :=
  [.rst false, .delay 2, .rst true, .delay 2]

/-- `SET_WINDOW(xs, ys, xe, ye)` (R130): no wait. -/
def windowSequence (xs ys xe ye : Half) : List Micro :=
  [command 0x44, data (windowX xs), data (windowX xe),
   command 0x45, data (lowByte ys), data (highByte ys), data (lowByte ye), data (highByte ye)]

/-- `FULL_WINDOW` (R133). -/
def fullWindow (c : Config) : List Micro := windowSequence 0 0 c.lastX c.lastY

/-- `SET_CURSOR(x, y)` (R131): always ends with a wait. -/
def cursorSequence (x y : Half) : List Micro :=
  [command 0x4E, data (cursorX x), command 0x4F, data (lowByte y), data (highByte y), .waitFree]

/-- `SEND_LUT` (R140): the table in ascending order, one data frame a byte, then a wait. -/
def lutSequence (c : Config) : List Micro :=
  command 0x32 :: c.lut.toList.map data ++ [.waitFree]

/-- `ON p` (R151). -/
def onSequence (isPartial : Bool) : List Micro :=
  [command 0x22, data (activationByte isPartial), command 0x20, .waitFree]

/-- `BURST(cmd, src)` (R150). -/
def burstSequence (cmd : Byte) (src : BurstSource) : List Micro :=
  [command cmd, .burst src]

/-- `PREPARE_DISPLAY` (R152). -/
def prepareSequence (c : Config) : List Micro :=
  resetPulse ++ [.waitFree, command 0x12, .waitFree,
    command 0x01, data c.doc0, data c.doc1, data c.doc2,
    command 0x11, data c.dem] ++
  fullWindow c ++ [command 0x21, data c.duc0, data c.duc1] ++ cursorSequence 0 0

/-- `DISPLAY_IMAGE` (R153): the absent-image test comes first (R158). -/
def imageSequence : List Micro :=
  .needImage :: burstSequence 0x24 .framebuffer ++ onSequence false

/-- `DISPLAY_BASE` (R154). -/
def baseSequence : List Micro :=
  .needImage :: burstSequence 0x24 .framebuffer ++ burstSequence 0x26 .framebuffer ++ onSequence false

/-- The ten data bytes of command 0x37 (R86, R180). -/
def gateBorderBytes : List Byte :=
  [0x00, 0x00, 0x00, 0x00, 0x00, 0x40, 0x00, 0x00, 0x00, 0x00]

/-- `DISPLAY_PARTIAL` (R155). -/
def partialSequence (c : Config) : List Micro :=
  .needImage :: softPulse ++ lutSequence c ++
  (command 0x37 :: gateBorderBytes.map data) ++
  [command 0x3C, data 0x80, command 0x22, data 0xC0, command 0x20] ++
  fullWindow c ++ cursorSequence 0 0 ++ burstSequence 0x24 .framebuffer ++ onSequence true

/-- `CLEAR color` (R156). -/
def clearSequence (color : Byte) : List Micro :=
  burstSequence 0x24 (.constant color) ++ onSequence false

/-- `POWER_DOWN` (R157). -/
def powerDownSequence : List Micro :=
  [command 0x10, data 0x01, .delay 2000, .rst false]

end Sys2Proof.Machine
end

