-- ==== Sys2Proof/Machine/Addressing.lean ====
section
/-!
DEFINITION. Addressing Controller (42_addressing.md): `SET_WINDOW` and `SET_CURSOR`.
-/

namespace Sys2Proof.Machine

/-- `SET_WINDOW xs, ys, xe, ye` (R130): no coordinate is checked. -/
def execSetWindow (xs ys xe ye : Half) (s : State) : StepOutcome :=
  present 0x05 (some xs) (some ys) (some xe) (some ye) (fun t => windowSequence t.a0 t.a1 t.a2 t.a3) s

/-- `SET_CURSOR x, y` (R131). -/
def execSetCursor (x y : Half) (s : State) : StepOutcome :=
  present 0x06 (some x) (some y) none none (fun t => cursorSequence t.a0 t.a1) s

end Sys2Proof.Machine
end

