-- ==== Sys2Proof/Machine/Refresh.lean ====
section
/-!
DEFINITION. Refresh State Machine (44_refresh.md): `ON` and the six entry points.
-/

namespace Sys2Proof.Machine

/-- `ON p` (R151): bit 0 of the operand selects the partial activation. -/
def execOn (p : Byte) (s : State) : StepOutcome :=
  present 0x08 (some (zext16 p)) none none none (fun t => onSequence (bitOperand t.a0)) s

/-- `PREPARE_DISPLAY` (R152). -/
def execPrepareDisplay (s : State) : StepOutcome :=
  present 0x10 none none none none (fun t => prepareSequence t.cfg) s

/-- `DISPLAY_IMAGE f` (R153). -/
def execDisplayImage (f : Byte) (s : State) : StepOutcome :=
  present 0x11 (some (zext16 f)) none none none (fun _ => imageSequence) s

/-- `DISPLAY_BASE f` (R154). -/
def execDisplayBase (f : Byte) (s : State) : StepOutcome :=
  present 0x12 (some (zext16 f)) none none none (fun _ => baseSequence) s

/-- `DISPLAY_PARTIAL f` (R155). -/
def execDisplayPartial (f : Byte) (s : State) : StepOutcome :=
  present 0x13 (some (zext16 f)) none none none (fun t => partialSequence t.cfg) s

/-- `CLEAR color` (R156). -/
def execClear (color : Byte) (s : State) : StepOutcome :=
  present 0x14 (some (zext16 color)) none none none (fun t => clearSequence (lowByte t.a0)) s

/-- `POWER_DOWN` (R157). -/
def execPowerDown (s : State) : StepOutcome :=
  present 0x15 none none none none (fun _ => powerDownSequence) s

/-- A reserved request code (R92): accepted, no wire event; the legality check completes it with `IllegalRequest` (R195). -/
def execReservedRequest (code : Byte) (s : State) : StepOutcome :=
  present code none none none none (fun _ => []) s

end Sys2Proof.Machine
end

