-- ==== Sys2Proof/Machine/ResetBusy.lean ====
section
/-!
DEFINITION. Reset and Busy Synchronization (41_reset_busy.md): `RESET` and `WAIT_FREE`.
-/

namespace Sys2Proof.Machine

/-- `RESET` (R120): the three-phase pulse. -/
def execReset (s : State) : StepOutcome :=
  present 0x03 none none none none (fun _ => resetPulse) s

/-- `WAIT_FREE` (R121): the busy poll. -/
def execWaitFree (s : State) : StepOutcome :=
  present 0x04 none none none none (fun _ => [.waitFree]) s

end Sys2Proof.Machine
end

