-- ==== Sys2Proof/Machine/Transport.lean ====
section
/-!
DEFINITION. Bus Transport (40_bus_transport.md): `SEND_COMMAND` and `SEND_DATA`.
-/

namespace Sys2Proof.Machine

/-- `SEND_COMMAND b` (R110): one command frame; `b` is not checked (R93). -/
def execSendCommand (b : Byte) (s : State) : StepOutcome :=
  present 0x01 (some (zext16 b)) none none none (fun t => [command (lowByte t.a0)]) s

/-- `SEND_DATA b` (R111): one data frame. -/
def execSendData (b : Byte) (s : State) : StepOutcome :=
  present 0x02 (some (zext16 b)) none none none (fun t => [data (lowByte t.a0)]) s

end Sys2Proof.Machine
end

