-- ==== Sys2Proof/Machine/Waveform.lean ====
section
/-!
DEFINITION. Waveform Table (43_waveform.md): `SEND_LUT`.
-/

namespace Sys2Proof.Machine

/-- `SEND_LUT` (R140). -/
def execSendLut (s : State) : StepOutcome :=
  present 0x07 none none none none (fun t => lutSequence t.cfg) s

end Sys2Proof.Machine
end

