-- ==== Sys2Proof/Machine/Wire.lean ====
section
/-!
DEFINITION. The wire symbols (45_panel_commands.md; 30_encoding.md R80): each is sent as the frame `DC(bit 8) CS(a) SPI(b) CS(i)`,
one event a step. The meaning emits the first event and puts the other three in front of what remains; the data bytes a named
opcode is followed by are symbols of their own in the sequence that sends it (R81).
-/

namespace Sys2Proof.Machine

/-- Wire symbol `0x001` (R170): the command frame `C(0x01)`. -/
def execDriverOutputControl (s : State) : StepOutcome := .next (s.startFrame false 0x01)

/-- Wire symbol `0x010` (R171): the command frame `C(0x10)`. -/
def execDeepSleepMode (s : State) : StepOutcome := .next (s.startFrame false 0x10)

/-- Wire symbol `0x011` (R172): the command frame `C(0x11)`. -/
def execDataEntryMode (s : State) : StepOutcome := .next (s.startFrame false 0x11)

/-- Wire symbol `0x012` (R173): the command frame `C(0x12)`. -/
def execSoftwareReset (s : State) : StepOutcome := .next (s.startFrame false 0x12)

/-- Wire symbol `0x020` (R174): the command frame `C(0x20)`. -/
def execMasterActivation (s : State) : StepOutcome := .next (s.startFrame false 0x20)

/-- Wire symbol `0x021` (R175): the command frame `C(0x21)`. -/
def execDisplayUpdateControl (s : State) : StepOutcome := .next (s.startFrame false 0x21)

/-- Wire symbol `0x022` (R176): the command frame `C(0x22)`. -/
def execDisplayUpdateControl2 (s : State) : StepOutcome := .next (s.startFrame false 0x22)

/-- Wire symbol `0x024` (R177): the command frame `C(0x24)`. -/
def execWriteRamA (s : State) : StepOutcome := .next (s.startFrame false 0x24)

/-- Wire symbol `0x026` (R178): the command frame `C(0x26)`. -/
def execWriteRamB (s : State) : StepOutcome := .next (s.startFrame false 0x26)

/-- Wire symbol `0x032` (R179): the command frame `C(0x32)`. -/
def execWriteLut (s : State) : StepOutcome := .next (s.startFrame false 0x32)

/-- Wire symbol `0x037` (R180): the command frame `C(0x37)`. -/
def execGateBorderConfig (s : State) : StepOutcome := .next (s.startFrame false 0x37)

/-- Wire symbol `0x03C` (R181): the command frame `C(0x3C)`. -/
def execBorderWaveform (s : State) : StepOutcome := .next (s.startFrame false 0x3C)

/-- Wire symbol `0x044` (R182): the command frame `C(0x44)`. -/
def execSetRamXRange (s : State) : StepOutcome := .next (s.startFrame false 0x44)

/-- Wire symbol `0x045` (R183): the command frame `C(0x45)`. -/
def execSetRamYRange (s : State) : StepOutcome := .next (s.startFrame false 0x45)

/-- Wire symbol `0x04E` (R184): the command frame `C(0x4E)`. -/
def execSetRamXCounter (s : State) : StepOutcome := .next (s.startFrame false 0x4E)

/-- Wire symbol `0x04F` (R185): the command frame `C(0x4F)`. -/
def execSetRamYCounter (s : State) : StepOutcome := .next (s.startFrame false 0x4F)

/-- A data symbol (R111): the data frame `D(b)`. -/
def execDataFrame (b : Byte) (s : State) : StepOutcome := .next (s.startFrame true b)

/-- Any other command symbol (R110, R93): the command frame `C(b)`. -/
def execCommandFrameRaw (b : Byte) (s : State) : StepOutcome := .next (s.startFrame false b)

end Sys2Proof.Machine
end

