-- ==== Sys2Proof/Machine/Dispatch.lean ====
section
/-!
DEFINITION. The dispatch: one arm per row of spec/opcode_table.json.
-/

namespace Sys2Proof.Machine

def exec (i : Instr) (s : State) : Host.Outcome State Fault Refusal :=
  match i with
  | .sendCommand b => Sys2Proof.Machine.execSendCommand b s
  | .sendData b => Sys2Proof.Machine.execSendData b s
  | .reset => Sys2Proof.Machine.execReset s
  | .waitFree => Sys2Proof.Machine.execWaitFree s
  | .setWindow xs ys xe ye => Sys2Proof.Machine.execSetWindow xs ys xe ye s
  | .setCursor x y => Sys2Proof.Machine.execSetCursor x y s
  | .sendLut => Sys2Proof.Machine.execSendLut s
  | .on p => Sys2Proof.Machine.execOn p s
  | .prepareDisplay => Sys2Proof.Machine.execPrepareDisplay s
  | .displayImage f => Sys2Proof.Machine.execDisplayImage f s
  | .displayBase f => Sys2Proof.Machine.execDisplayBase f s
  | .displayPartial f => Sys2Proof.Machine.execDisplayPartial f s
  | .clear color => Sys2Proof.Machine.execClear color s
  | .powerDown => Sys2Proof.Machine.execPowerDown s
  | .reservedRequest code => Sys2Proof.Machine.execReservedRequest code s
  | .driverOutputControl => Sys2Proof.Machine.execDriverOutputControl s
  | .deepSleepMode => Sys2Proof.Machine.execDeepSleepMode s
  | .dataEntryMode => Sys2Proof.Machine.execDataEntryMode s
  | .softwareReset => Sys2Proof.Machine.execSoftwareReset s
  | .masterActivation => Sys2Proof.Machine.execMasterActivation s
  | .displayUpdateControl => Sys2Proof.Machine.execDisplayUpdateControl s
  | .displayUpdateControl2 => Sys2Proof.Machine.execDisplayUpdateControl2 s
  | .writeRamA => Sys2Proof.Machine.execWriteRamA s
  | .writeRamB => Sys2Proof.Machine.execWriteRamB s
  | .writeLut => Sys2Proof.Machine.execWriteLut s
  | .gateBorderConfig => Sys2Proof.Machine.execGateBorderConfig s
  | .borderWaveform => Sys2Proof.Machine.execBorderWaveform s
  | .setRamXRange => Sys2Proof.Machine.execSetRamXRange s
  | .setRamYRange => Sys2Proof.Machine.execSetRamYRange s
  | .setRamXCounter => Sys2Proof.Machine.execSetRamXCounter s
  | .setRamYCounter => Sys2Proof.Machine.execSetRamYCounter s
  | .dataFrame b => Sys2Proof.Machine.execDataFrame b s
  | .commandFrameRaw b => Sys2Proof.Machine.execCommandFrameRaw b s

end Sys2Proof.Machine
end

