-- ==== Sys2Proof/Machine/Sequencer.lean ====
section
/-!
DEFINITION. What each element of a micro-sequence does, but for a wire symbol (which is an instruction). Each acts on the state
from whose `todo` the element has been taken, and makes one wire event or one internal state write (R20, R39).
-/

namespace Sys2Proof.Machine

/-- The legality check, on `OP` and `MACRO` (R39, R196). -/
def checkLegality (s : State) : State :=
  if legalIn s.op s.macroState then s else s.complete .illegalRequest

/-- The absent-image test, on `A[0][0]` (R158). -/
def checkImage (s : State) : State :=
  if bitOperand s.a0 then s else s.complete .missingImage

/-- `POLLS <- 0`, then the loop (R121). -/
def startPoll (s : State) : State :=
  { s with polls := 0 }.prepend [.poll]

/-- A sample read 1: `POLLS <- POLLS + 1`; at the limit `raise SyncTimeout`, else the delay follows (R121, R124). -/
def afterBusySample (s : State) : State :=
  let t := { s with polls := s.polls + 1 }
  if t.cfg.pollLimit = some t.polls then t.complete .syncTimeout
  else t.prepend [.pollDelay]

/-- One turn of the poll loop up to its delay: a sample that reads 0 leaves the loop (R121). -/
def pollOnce (s : State) : State :=
  if s.nextLevel then afterBusySample s.sample else s.sample

/-- The delay of the poll loop and the jump back to its sample, the one place where `SEQ_PC` moves backwards (R23, R121). -/
def delayAndRepeat (s : State) : State :=
  let t := s.emit (.delay pollMs)
  { t with seqPc := t.seqPc - 2 }.prepend [.poll]

/-- The start of the burst loop: `ROW` and `COL` at 0 (R150, R24). -/
def startBurst (src : BurstSource) (s : State) : State :=
  { s with row := 0, col := 0 }.prepend [.burstByte src]

/-- The body of the burst loop (R150): read the byte (R61, R62) or take the constant, then its data frame. -/
def burstBody (src : BurstSource) (s : State) : StepOutcome :=
  match src with
  | .constant c => .next (s.prepend [data c, .burstNext src])
  | .framebuffer =>
    let a := fbAddress s.cfg s.row s.col
    if a < s.cfg.bufLen then .next ((s.readFb a).prepend [data (s.fbValue a), .burstNext src])
    else .fault (.noSuchFramebufferByte a)

/-- The advance of the burst loop: `COL` within `ROW_BYTES`, then `ROW` within `HEIGHT`, then the end (R150, R24). -/
def advanceBurst (src : BurstSource) (s : State) : State :=
  if s.col.toNat + 1 < s.cfg.rowBytes then { s with col := s.col + 1 }.prepend [.burstByte src]
  else if s.row.toNat + 1 < s.cfg.height then { s with col := 0, row := s.row + 1 }.prepend [.burstByte src]
  else s

end Sys2Proof.Machine
end

