-- ==== Sys2Proof/Machine/Fetch.lean ====
section
/-!
DEFINITION. Where the next instruction comes from: the head of the micro-sequence while an operation is in progress, the host's
next request at `READY = 1`; and the host's other moves.
-/

namespace Sys2Proof.Machine

/-- One element of the micro-sequence, already taken from `todo`: a wire symbol is decoded and executed, the others do what
Machine/Sequencer.lean says. -/
def runMicro (m : Micro) (s : State) : StepOutcome :=
  match m with
  | .symbol w => exec (decodeSymbol w) s
  | .cs active => .next (s.emit (.cs active))
  | .spi b => .next (s.emit (.spi b))
  | .legality => .next (checkLegality s)
  | .needImage => .next (checkImage s)
  | .rst l => .next (s.emit (.rst l))
  | .delay ms => .next (s.emit (.delay ms))
  | .waitFree => .next (startPoll s)
  | .poll => .next (pollOnce s)
  | .pollDelay => .next (delayAndRepeat s)
  | .burst src => .next (startBurst src s)
  | .burstByte src => burstBody src s
  | .burstNext src => .next (advanceBurst src s)

/-- The operation in progress goes on by one step; at the end of its micro-sequence it completes with `OK` (R39, R40, R191). -/
def advance (s : State) : StepOutcome :=
  match s.todo with
  | [] => .next (s.complete .ok)
  | m :: rest => runMicro m (s.withTodo rest)

/-- At `READY = 1`: the host's next request is presented (R38); without one the core does nothing (R221). -/
def acceptNext (s : State) : StepOutcome :=
  match decodeRequest s.port with
  | .ok (i, rest) => exec i { s with port := rest }
  | .error .noBytes => .next s
  | .error (.tooShort _) => .refused .malformedRequest

/-- One step of the core. -/
def coreStep (s : State) : StepOutcome :=
  if s.ready then acceptNext s else advance s

/-- The host presents these bytes now, whatever `READY` is (R38): one whole request, or lost at `READY = 0`. -/
def presentNow (bytes : List Byte) (s : State) : StepOutcome :=
  match decodeRequest bytes with
  | .ok (i, []) => exec i s
  | .ok (_, _ :: _) => if s.ready then .refused .malformedRequest else .next s
  | .error _ => if s.ready then .refused .malformedRequest else .next s

/-- A move of the host, already taken from `moves` (R20). -/
def hostMove (m : HostMove) (s : State) : StepOutcome :=
  match m with
  | .letRun => coreStep s
  | .present bytes => presentNow bytes s
  | .writeFb a v => hostWriteFb a v s
  | .coreReset => .next s.coreReset

/-- One step of the machine: the host's next move if it has one, else a step of the core. -/
def machineStep (s : State) : StepOutcome :=
  match s.moves with
  | [] => coreStep s
  | m :: rest => hostMove m { s with moves := rest }

end Sys2Proof.Machine
end

