-- ==== Sys2Proof/Machine/Step.lean ====
section
/-!
DEFINITION. The step, and the host's placing of one instruction where the step takes its next one from.
-/

namespace Sys2Proof.Machine

/-- One step: one wire event, one internal state write, or one move of the host (R20). A configuration outside R6 is refused. -/
def step (s : State) : Host.Outcome State Fault Refusal :=
  if s.cfg.Legal then machineStep s else .refused .illegalConfiguration

/-- `s` with the instruction of a word of the opcode table where `step` takes its next one from (assumption 9): a request as
the host's next, the core ready for it; a wire symbol as the next element of a micro-sequence in progress. -/
def State.withFetchWord (s : State) (nbits w : Nat) : State :=
  if tableIsSymbol nbits w then
    { s with moves := [], ready := false, todo := .symbol (BitVec.ofNat 9 w) :: s.todo }
  else
    { s with moves := [], ready := true, todo := [], port := tableRequest nbits w ++ s.port }

end Sys2Proof.Machine
end

