-- ==== Sys2Proof/Safety.lean ====
section
/-!
DEFINITION. The terms claims are stated in: runs of the machine, the event sequences the rules write as `C(b)`, `D(b)`, `WF` and
so on (00_scope.md R11, 30_encoding.md R96), what a completion reports, and the invariant of the machine.
-/

namespace Sys2Proof.Machine

/-! ## Runs -/

/-- `u` is reached from `s` in some number of steps. -/
def Reaches (s u : State) : Prop := ∃ n, Host.Core.run Sys2Proof.core n s = .next u

/-- The request `i`, presented in `s`, is accepted, and `u` is reached from the state after its acceptance. -/
def Runs (i : Instr) (s u : State) : Prop := ∃ t, exec i s = .next t ∧ t.ready = false ∧ Reaches t u

/-- The core is ready, the configuration is one of R6, the host makes no move but presenting requests, no host write is in a race
with an operation (R68), and no core reset inside a frame has made the trace one that nothing is claimed about (R220). -/
structure Calm (s : State) : Prop where
  legal : s.cfg.Legal
  ready : s.ready = true
  noMoves : s.moves = []
  notRaced : s.raced = []
  notTainted : s.tainted = false

/-- `k` busy samples do not reach the poll limit (R121). -/
def State.admits (s : State) (k : Nat) : Prop := ∀ n, s.cfg.pollLimit = some n → k < n

/-! ## Event sequences, oldest first -/

/-- `C(b)` (R110). -/
def Trace.command (b : Byte) : List Event := [.dc false, .cs true, .spi b, .cs false]

/-- `D(b)` (R111). -/
def Trace.data (b : Byte) : List Event := [.dc true, .cs true, .spi b, .cs false]

/-- `D(b)` for each byte of a list, in order. -/
def Trace.dataBytes (bytes : List Byte) : List Event := bytes.flatMap Trace.data

/-- `BUSY?(1) DELAY(10)`, `k` times. -/
def Trace.busyPolls (k : Nat) : List Event := (List.replicate k [Event.busy true, .delay 10]).flatten

/-- `WF` with `k` busy samples before the first idle one (R121). -/
def Trace.wait (k : Nat) : List Event := Trace.busyPolls k ++ [.busy false]

/-- A `WAIT_FREE` that takes `n` samples, all busy, and ends with `SyncTimeout` (R124). -/
def Trace.timeout (n : Nat) : List Event := Trace.busyPolls (n - 1) ++ [.busy true]

/-- The pulse of `RESET` (R120). -/
def Trace.resetPulse : List Event :=
  [.rst true, .delay 50, .rst false, .delay 2, .rst true, .delay 50]

/-- `SOFT_PULSE` (R122). -/
def Trace.softPulse : List Event := [.rst false, .delay 2, .rst true, .delay 2]

/-- A 16-bit coordinate as the two bytes R84 sends, by exact arithmetic. -/
def Trace.coordinate (y : Nat) : List Byte := [BitVec.ofNat 8 (y % 256), BitVec.ofNat 8 (y / 256)]

/-- The frames of `SET_WINDOW` (R130, R83, R84), by exact arithmetic on the coordinates. -/
def Trace.window (xs ys xe ye : Nat) : List Event :=
  Trace.command 0x44 ++ Trace.dataBytes [BitVec.ofNat 8 (xs / 8), BitVec.ofNat 8 (xe / 8)] ++
  Trace.command 0x45 ++ Trace.dataBytes (Trace.coordinate ys ++ Trace.coordinate ye)

/-- The frames of `SET_CURSOR` (R131, R84, R85). -/
def Trace.cursor (x y : Nat) : List Event :=
  Trace.command 0x4E ++ Trace.data (BitVec.ofNat 8 x) ++ Trace.command 0x4F ++ Trace.dataBytes (Trace.coordinate y)

/-- The frames of `SEND_LUT` (R140). -/
def Trace.lut (c : Config) : List Event := Trace.command 0x32 ++ Trace.dataBytes c.lut.toList

/-- The frames of `ON` with its selector byte (R151). -/
def Trace.activation (selector : Byte) : List Event :=
  Trace.command 0x22 ++ Trace.data selector ++ Trace.command 0x20

/-- The burst of a framebuffer (R150, R61, R64): for each address in ascending order, the read and the frame that carries it. -/
def Trace.fbBurst (cmd : Byte) (fb : Memory) (bufLen : Nat) : List Event :=
  Trace.command cmd ++
    (List.range bufLen).flatMap fun a => Event.fbRead a (Memory.read fb a) :: Trace.data (Memory.read fb a)

/-- The burst of a constant (R150, R156). -/
def Trace.constBurst (cmd : Byte) (c : Byte) (bufLen : Nat) : List Event :=
  Trace.command cmd ++ Trace.dataBytes (List.replicate bufLen c)

/-! ## What a completion reports -/

/-- `u` is a completion with code `k` of a request presented in `s`: the macro-state is `m`, the events `es` have joined the
trace, the bits of `flags` have joined `EFLAGS`, `taken` is what is left of the samples (R40, R69 (4)). -/
structure Reports (s u : State) (k : Completion) (m : MacroState) (flags : BitVec 4) (es : List Event) (left : List Level) :
    Prop where
  ready : u.ready = true
  result : u.result = k
  macroState : u.macroState = m
  eflags : u.eflags = s.eflags ||| flags
  trace : u.trace = s.trace ++ es
  samples : u.samples = left
  fb : u.fb = s.fb
  cfg : u.cfg = s.cfg
  port : u.port = s.port

/-- The pin latches of `u`. -/
structure Pins (u : State) (rst : Option Level) (cs : Level) (dc : Option Level) : Prop where
  rst : u.rst = rst
  cs : u.cs = cs
  dc : u.dc = dc

/-- The request `i`, presented in `s`, completes with `IllegalRequest`: no wire event, `EFLAGS` bit 2, nothing else (R195). -/
def Refused (i : Instr) (s : State) : Prop :=
  ∃ u, Runs i s u ∧ Reports s u .illegalRequest s.macroState 0b0100 [] s.samples ∧ Pins u s.rst s.cs s.dc

/-- The request `i`, presented in `s`, ends with `SyncTimeout` after the events `es`, with `left` of the samples left:
`EFLAGS` bit 1, `MACRO` unchanged (R193). -/
def TimesOut (i : Instr) (s : State) (es : List Event) (left : List Level) : Prop :=
  ∃ u, Runs i s u ∧ Reports s u .syncTimeout s.macroState 0b0010 es left

/-- The request `i`, presented in `s`, completes with `OK`: the macro-state is `m`, the events are `es`, the pins are left at
`rst`, inactive chip select and `dc`, and `left` of the samples is left. -/
def Succeeds (i : Instr) (s : State) (m : MacroState) (es : List Event) (left : List Level) (rst dc : Option Level) : Prop :=
  ∃ u, Runs i s u ∧ Reports s u .ok m 0b0000 es left ∧ Pins u rst s.cfg.csInactive dc

/-- The wire symbol `i`, executed in `s`, is the command or data frame of `b` (R80, R112): `exec` answers with its first event
sent, three steps later the other three are, and nothing but the trace, `SEQ_PC` and the transport's pins has changed. -/
def SendsFrame (i : Instr) (level : Level) (b : Byte) (s : State) : Prop :=
  ∃ t, exec i s = .next t ∧ t.trace = s.trace ++ [.dc level] ∧ t.dc = some level ∧ t.rst = s.rst ∧
    Host.Core.run Sys2Proof.core 3 t = .next
      { s with
        events := [.cs false, .spi b, .cs true, .dc level] ++ s.events
        seqPc := s.seqPc + 4
        dc := some level
        cs := s.cfg.csInactive
        sck := false
        mosi := b.getLsbD 0 }

/-! ## Framing (R112) -/

/-- Where in a frame a trace stands. -/
inductive FramePhase where
  | outside
  | afterDc
  | selected
  | shifted
deriving DecidableEq, Repr

/-- The phase after one more event: `DC CS(a) SPI CS(i)` with nothing in between, and no part of a frame elsewhere. -/
def FramePhase.next : FramePhase → Event → Option FramePhase
  | .outside, .dc _ => some .afterDc
  | .outside, .rst _ => some .outside
  | .outside, .delay _ => some .outside
  | .outside, .busy _ => some .outside
  | .outside, .fbRead _ _ => some .outside
  | .afterDc, .cs true => some .selected
  | .selected, .spi _ => some .shifted
  | .shifted, .cs false => some .outside
  | _, _ => none

/-- The phase of a trace given newest event first; `none` if it breaks the framing. -/
def framePhase : List Event → Option FramePhase
  | [] => some .outside
  | e :: es => (framePhase es).bind fun p => p.next e

/-- The phase a micro-sequence is to be taken up in. -/
def todoPhase : List Micro → FramePhase
  | .cs true :: .spi _ :: .cs false :: _ => .afterDc
  | .spi _ :: .cs false :: _ => .selected
  | .cs false :: _ => .shifted
  | _ => .outside

/-- What remains after the frame in progress. -/
def afterFrame : List Micro → List Micro
  | .cs true :: .spi _ :: .cs false :: ms => ms
  | .spi _ :: .cs false :: ms => ms
  | .cs false :: ms => ms
  | ms => ms

/-- Not a part of a frame. -/
def Micro.isWhole : Micro → Bool
  | .cs _ => false
  | .spi _ => false
  | .symbol _ | .legality | .needImage | .rst _ | .delay _ | .waitFree | .poll | .pollDelay | .burst _ | .burstByte _
  | .burstNext _ => true

/-- Inside the loop of a burst. -/
def Micro.inBurst : Micro → Bool
  | .burstByte _ | .burstNext _ => true
  | .symbol _ | .cs _ | .spi _ | .legality | .needImage | .rst _ | .delay _ | .waitFree | .poll | .pollDelay
  | .burst _ => false

/-- Inside the poll loop. -/
def Micro.inPoll : Micro → Bool
  | .poll | .pollDelay => true
  | .symbol _ | .cs _ | .spi _ | .legality | .needImage | .rst _ | .delay _ | .waitFree | .burst _ | .burstByte _
  | .burstNext _ => false

/-! ## The invariant -/

/-- What holds at reset and after every step. -/
structure Invariant (s : State) : Prop where
  /-- the configuration is one of R6 -/
  legal : s.cfg.Legal
  /-- the framebuffer keeps its canonical form -/
  fbWf : Memory.wf s.fb
  /-- and lies inside `BUF_LEN` (R72) -/
  fbInside : ∀ c ∈ s.fb, c.1 < s.cfg.bufLen
  /-- `READY = 1` means that no operation is in progress (R28) -/
  idle : s.ready = true → s.todo = []
  /-- a race of the host's writes with an operation ends with it (R68) -/
  races : s.ready = true → s.raced = []
  /-- `EFLAGS` bit 3 is never set (R30, R194) -/
  flag3 : s.eflags.getLsbD 3 = false
  /-- `TransportFailure` is never produced (R194) -/
  result : s.result ≠ .transportFailure
  /-- `SCK` is 0 outside an `SPI(b)` event (R27) -/
  sckLow : s.sck = false
  /-- the trace keeps the framing contract (R112) and stands where the micro-sequence goes on -/
  framed : framePhase s.events = some (todoPhase s.todo)
  whole : ∀ m ∈ afterFrame s.todo, m.isWhole = true
  /-- `chip_select` is at its active level inside a frame and at its inactive level outside (R112) -/
  select : s.cs = if todoPhase s.todo = .selected ∨ todoPhase s.todo = .shifted then s.cfg.csActive else s.cfg.csInactive
  /-- the burst counters keep their ranges inside the loop (R24) -/
  counters : (∃ m ∈ s.todo, m.inBurst = true) → s.row.toNat < s.cfg.height ∧ s.col.toNat < s.cfg.rowBytes
  /-- the poll count is below the limit inside the loop (R121) -/
  polling : (∃ m ∈ s.todo, m.inPoll = true) → s.admits s.polls
  /-- every framebuffer read was below `BUF_LEN` (R74) -/
  reads : ∀ a v, Event.fbRead a v ∈ s.events → a < s.cfg.bufLen

end Sys2Proof.Machine
end

