-- ==== Sys2Proof/Certificates/Slice0/Obligations.lean ====
section
/-!
DEFINITION. The statements for the provers.
-/

open Sys2Proof Sys2Proof.Machine

/-! ## Encoding -/

/-- Words written out from 30_encoding.md R91, R90 and R80 decode to what they stand for. -/
def Obligations.SpecWordsDecode : Prop :=
  decodeRequest [0x01, 0x24] = .ok (.sendCommand 0x24, []) ∧
  decodeRequest [0x04] = .ok (.waitFree, []) ∧
  decodeRequest [0x05, 0x00, 0x00, 0x00, 0x00, 0x7F, 0x00, 0x27, 0x01] = .ok (.setWindow 0 0 127 295, []) ∧
  decodeRequest [0x06, 0x34, 0x12, 0x78, 0x56] = .ok (.setCursor 0x1234 0x5678, []) ∧
  decodeRequest [0x07] = .ok (.sendLut, []) ∧
  decodeRequest [0x13, 0x01] = .ok (.displayPartial 0x01, []) ∧
  decodeRequest [0x09, 0x10, 0x14, 0xFF, 0x15] = .ok (.reservedRequest 0x09, [0x10, 0x14, 0xFF, 0x15]) ∧
  decodeSymbol 0b000110111 = .gateBorderConfig ∧
  decodeSymbol 0b100110111 = .dataFrame 0x37 ∧
  decodeSymbol 0b000110110 = .commandFrameRaw 0x36

/-- Decoding what a well-formed instruction is encoded as gives it back: a request with any bytes after it, and a wire symbol. -/
def Obligations.EncodeThenDecode : Prop :=
  ∀ i : Instr, i.wellFormed = true →
    match encode i with
    | .request bytes => ∀ rest, decodeRequest (bytes ++ rest) = .ok (i, rest)
    | .symbol w => decodeSymbol w = i

/-- What is decoded is well formed, and encoding it gives back exactly the bytes taken, or the symbol. -/
def Obligations.DecodeThenEncode : Prop :=
  (∀ bytes i rest, decodeRequest bytes = .ok (i, rest) →
    i.wellFormed = true ∧ i.isRequest = true ∧ ∃ taken, encode i = .request taken ∧ bytes = taken ++ rest) ∧
  (∀ w, (decodeSymbol w).wellFormed = true ∧ (decodeSymbol w).isRequest = false ∧ encode (decodeSymbol w) = .symbol w)

/-- R94: byte 0 alone fixes how many bytes a request takes, in every state and whatever follows; 1 for a reserved code; and
fewer bytes are no request. -/
def Obligations.RequestLengthIsFixedByByteZero : Prop :=
  (∀ code ∈ ([0x03, 0x04, 0x07, 0x10, 0x15] : List Byte), requestLength code = 1) ∧
  (∀ code ∈ ([0x01, 0x02, 0x08, 0x11, 0x12, 0x13, 0x14] : List Byte), requestLength code = 2) ∧
  requestLength 0x05 = 9 ∧ requestLength 0x06 = 5 ∧
  (∀ code, assignedCodes.contains code = false → requestLength code = 1) ∧
  (∀ code more i rest, decodeRequest (code :: more) = .ok (i, rest) →
    more.length + 1 = requestLength code + rest.length) ∧
  (∀ code more, more.length + 1 < requestLength code → decodeRequest (code :: more) = .error (.tooShort code)) ∧
  (∀ code more, requestLength code ≤ more.length + 1 → ∃ i rest, decodeRequest (code :: more) = .ok (i, rest))

/-- R83, R84, R85: the bytes a coordinate operand is sent as, by exact arithmetic on every 16-bit value. -/
def Obligations.CoordinateBytesOnTheWire : Prop :=
  ∀ v : Half,
    (windowX v).toNat = v.toNat / 8 % 256 ∧
    (lowByte v).toNat = v.toNat % 256 ∧ (highByte v).toNat = v.toNat / 256 ∧
    (cursorX v).toNat = v.toNat % 256

/-- R88: `SPI(b)` is, for bits 7 down to 0, the bit on `MOSI`, then `SCK` 1, then `SCK` 0: eight pulses from low to low; a panel
that samples `MOSI` on the rising edges sees the bits of `b`, most significant first. -/
def Obligations.SpiShiftsMostSignificantBitFirst : Prop :=
  ∀ (b : Byte) (before : Level),
    spiWrites b =
      [.mosi (b.getLsbD 7), .sck true, .sck false, .mosi (b.getLsbD 6), .sck true, .sck false,
       .mosi (b.getLsbD 5), .sck true, .sck false, .mosi (b.getLsbD 4), .sck true, .sck false,
       .mosi (b.getLsbD 3), .sck true, .sck false, .mosi (b.getLsbD 2), .sck true, .sck false,
       .mosi (b.getLsbD 1), .sck true, .sck false, .mosi (b.getLsbD 0), .sck true, .sck false] ∧
    risingSamples (spiWrites b) false before =
      [b.getLsbD 7, b.getLsbD 6, b.getLsbD 5, b.getLsbD 4, b.getLsbD 3, b.getLsbD 2, b.getLsbD 1, b.getLsbD 0] ∧
    (spiWrites b).count (.sck true) = 8 ∧ (spiWrites b).count (.sck false) = 8 ∧
    (∀ s : State, s.sck = false → (s.emit (.spi b)).sck = false ∧ (s.emit (.spi b)).mosi = b.getLsbD 0)

/-! ## Configuration and reset -/

/-- R7: `ROW_BYTES` and `BUF_LEN` are exact, for every configuration of R6, and within their bounds; R98 (3): so are
`WIDTH - 1` and `HEIGHT - 1` as 16-bit values. -/
def Obligations.DerivedConstantsAreExact : Prop :=
  ∀ c : Config, c.Legal →
    c.rowBytes * 8 = c.width ∧ c.bufLen * 8 = c.width * c.height ∧ c.bufLen = c.rowBytes * c.height ∧
    c.rowBytes ≤ 256 ∧ c.bufLen ≤ 2 ^ 24 ∧ c.lastX.toNat = c.width - 1 ∧ c.lastY.toNat = c.height - 1 ∧
    (c.width = 128 → c.height = 296 → c.rowBytes = 16 ∧ c.bufLen = 4736)

/-- R6: `ORIENT` decides which construction argument is which dimension; a configuration whose dimensions are not divisible
by 8 or not within the bounds is refused by every step; no step changes a dimension. -/
def Obligations.GeometryIsCheckedAndOriented : Prop :=
  (∀ c : Config, c.orient = .portrait → c.width = c.w0 ∧ c.height = c.h0) ∧
  (∀ c : Config, c.orient = .landscape → c.width = c.h0 ∧ c.height = c.w0) ∧
  (∀ s : State, s.cfg.width % 8 ≠ 0 ∨ s.cfg.height % 8 ≠ 0 ∨ s.cfg.width < 8 ∨ 2048 < s.cfg.width ∨ s.cfg.height < 8 ∨
      65536 < s.cfg.height → step s = .refused .illegalConfiguration) ∧
  (∀ s t : State, step s = .next t → t.cfg.width = s.cfg.width ∧ t.cfg.height = s.cfg.height)

/-- R42: the reset values the spec states. (Those it calls "no value" are `none` for `RST` and `DC`, free values for the rest:
assumption 4, not stated here.) -/
def Obligations.ResetLeavesTheStatedValues : Prop :=
  State.reset.macroState = .uninitialized ∧ State.reset.ready = true ∧ State.reset.result = .ok ∧
  State.reset.eflags = 0 ∧ State.reset.seqPc = 0 ∧ State.reset.polls = 0 ∧
  State.reset.cs = !State.reset.cfg.csActive ∧ State.reset.rst = none ∧ State.reset.dc = none ∧
  State.reset.sck = false ∧ State.reset.lastBusy = false ∧ State.reset.trace = [] ∧
  State.reset.readRegister 0 = some 0x01 ∧ State.reset.readRegister 1 = some 0x00

/-- R220: core reset at any time, also inside an operation or a frame, puts every element of the core at its reset value and
leaves the framebuffer and the configuration. -/
def Obligations.CoreResetRestoresResetValues : Prop :=
  ∀ (s : State) (rest : List HostMove), s.cfg.Legal → s.moves = .coreReset :: rest →
    ∃ t, step s = .next t ∧
      t.macroState = .uninitialized ∧ t.ready = true ∧ t.result = .ok ∧ t.eflags = 0 ∧ t.seqPc = 0 ∧ t.polls = 0 ∧
      t.todo = [] ∧ t.cs = s.cfg.csInactive ∧ t.rst = none ∧ t.dc = none ∧ t.sck = false ∧ t.lastBusy = false ∧
      t.trace = [] ∧ t.fb = s.fb ∧ t.cfg = s.cfg ∧ t.moves = rest ∧ t.port = s.port

/-- R221: after core reset, for every configuration, the core is in `Uninitialized` with `READY = 1`, and with no request and
no move of the host it does nothing, in that state or any other with `READY = 1`: the state, its trace included, stays. -/
def Obligations.IdleCoreDoesNothing : Prop :=
  (∀ s : State, s.cfg.Legal → s.ready = true → s.moves = [] → s.port = [] → step s = .next s) ∧
  (∀ (c : Config) (n : Nat), c.Legal →
    (State.afterReset c n).macroState = .uninitialized ∧ (State.afterReset c n).ready = true ∧
    (State.afterReset c n).trace = [] ∧ step (State.afterReset c n) = .next (State.afterReset c n))

/-! ## The step runs the decoded instruction -/

/-- At `READY = 1`, with a whole request first in the host's stream, `step` is `exec` of it with the stream moved past it. -/
def Obligations.StepExecutesTheNextRequest : Prop :=
  ∀ (s : State) (i : Instr) (rest : List Byte), s.cfg.Legal → s.ready = true → s.moves = [] →
    decodeRequest s.port = .ok (i, rest) → step s = exec i { s with port := rest }

/-- In an operation, with a wire symbol first in what remains of it, `step` is `exec` of the symbol with the rest remaining. -/
def Obligations.StepExecutesTheNextSymbol : Prop :=
  ∀ (s : State) (w : BitVec 9) (rest : List Micro), s.cfg.Legal → s.ready = false → s.moves = [] →
    s.todo = .symbol w :: rest → step s = exec (decodeSymbol w) { s with todo := rest }

/-- A request the host presents by force (R38): executed at `READY = 1`, without effect and lost at `READY = 0`. -/
def Obligations.PresentedRequestIsExecutedOrLost : Prop :=
  ∀ (s : State) (bytes : List Byte) (i : Instr) (rest : List HostMove), s.cfg.Legal → s.moves = .present bytes :: rest →
    decodeRequest bytes = .ok (i, []) →
    (s.ready = true → step s = exec i { s with moves := rest }) ∧
    (s.ready = false → step s = .next { s with moves := rest })

/-! ## Acceptance (R38, R90, R22) -/

/-- R38: each request, presented at `READY = 1`, is accepted in one step: `READY` falls, `OP` takes its code, exactly the latches
it has operands for take them (a byte zero-extended), `SEQ_PC` is 0, its micro-sequence is loaded, and nothing else changes.
Presented at `READY = 0` it has no effect. -/
def Obligations.AcceptanceWritesTheLatches : Prop :=
  (∀ (i : Instr) (s : State), i.isRequest = true → s.ready = false → exec i s = .next s) ∧
  ∀ s : State, s.ready = true →
    (∀ b, ∃ ms, exec (.sendCommand b) s =
      .next { s with ready := false, op := 0x01, a0 := b.setWidth 16, seqPc := 0, todo := ms }) ∧
    (∀ b, ∃ ms, exec (.sendData b) s =
      .next { s with ready := false, op := 0x02, a0 := b.setWidth 16, seqPc := 0, todo := ms }) ∧
    (∃ ms, exec .reset s = .next { s with ready := false, op := 0x03, seqPc := 0, todo := ms }) ∧
    (∃ ms, exec .waitFree s = .next { s with ready := false, op := 0x04, seqPc := 0, todo := ms }) ∧
    (∀ xs ys xe ye, ∃ ms, exec (.setWindow xs ys xe ye) s =
      .next { s with ready := false, op := 0x05, a0 := xs, a1 := ys, a2 := xe, a3 := ye, seqPc := 0, todo := ms }) ∧
    (∀ x y, ∃ ms, exec (.setCursor x y) s =
      .next { s with ready := false, op := 0x06, a0 := x, a1 := y, seqPc := 0, todo := ms }) ∧
    (∃ ms, exec .sendLut s = .next { s with ready := false, op := 0x07, seqPc := 0, todo := ms }) ∧
    (∀ p, ∃ ms, exec (.on p) s =
      .next { s with ready := false, op := 0x08, a0 := p.setWidth 16, seqPc := 0, todo := ms }) ∧
    (∃ ms, exec .prepareDisplay s = .next { s with ready := false, op := 0x10, seqPc := 0, todo := ms }) ∧
    (∀ f, ∃ ms, exec (.displayImage f) s =
      .next { s with ready := false, op := 0x11, a0 := f.setWidth 16, seqPc := 0, todo := ms }) ∧
    (∀ f, ∃ ms, exec (.displayBase f) s =
      .next { s with ready := false, op := 0x12, a0 := f.setWidth 16, seqPc := 0, todo := ms }) ∧
    (∀ f, ∃ ms, exec (.displayPartial f) s =
      .next { s with ready := false, op := 0x13, a0 := f.setWidth 16, seqPc := 0, todo := ms }) ∧
    (∀ c, ∃ ms, exec (.clear c) s =
      .next { s with ready := false, op := 0x14, a0 := c.setWidth 16, seqPc := 0, todo := ms }) ∧
    (∃ ms, exec .powerDown s = .next { s with ready := false, op := 0x15, seqPc := 0, todo := ms }) ∧
    (∀ code, ∃ ms, exec (.reservedRequest code) s =
      .next { s with ready := false, op := code, seqPc := 0, todo := ms })

/-- The frame of acceptance, for all fifteen requests at once: whenever `exec` of a request answers a next state, no pin, no
counter, no status but `READY`, no byte of the framebuffer and no event of the trace has changed. -/
def Obligations.RequestsChangeNoPinStatusOrMemory : Prop :=
  ∀ (i : Instr) (s t : State), i.isRequest = true → exec i s = .next t →
    t.cfg = s.cfg ∧ t.macroState = s.macroState ∧ t.row = s.row ∧ t.col = s.col ∧ t.polls = s.polls ∧
    t.rst = s.rst ∧ t.cs = s.cs ∧ t.dc = s.dc ∧ t.sck = s.sck ∧ t.mosi = s.mosi ∧ t.lastBusy = s.lastBusy ∧
    t.result = s.result ∧ t.eflags = s.eflags ∧ t.trace = s.trace ∧ t.ready = false ∧
    (∀ a, Memory.read t.fb a = Memory.read s.fb a)

/-- R196, R39, R195: acceptance puts one legality check in front of the micro-sequence. In the macro-states the table calls legal,
the check's step does nothing else than leave the rest to do; in the others it completes the request with `IllegalRequest`, without
a wire event, `MACRO` and the pins unchanged. No second check is in the rest. That the check is an element of the micro-sequence
and exactly one step, after the step of acceptance, is the model's choice (log entry 1). -/
def Obligations.LegalityIsCheckedOnceByTheTable : Prop :=
  ∀ (i : Instr) (s t : State), s.cfg.Legal → s.ready = true → s.moves = [] → i.isRequest = true → i.wellFormed = true →
    exec i s = .next t →
    ∃ rest, t.todo = .legality :: rest ∧ .legality ∉ rest ∧
      (i = .reset ∨ i = .waitFree ∨ i = .prepareDisplay ∨
          (s.macroState = .active ∧ ∀ code, i ≠ .reservedRequest code) → step t = .next { t with todo := rest }) ∧
      (i ≠ .reset → i ≠ .waitFree → i ≠ .prepareDisplay →
          (s.macroState ≠ .active ∨ ∃ code, i = .reservedRequest code) →
        ∃ u, step t = .next u ∧ u.todo = [] ∧ Reports t u .illegalRequest s.macroState 0b0100 [] t.samples ∧
          Pins u s.rst s.cs s.dc)

/-! ## Requests from presentation to completion -/

/-- R110: `SEND_COMMAND b` sends `C(b)` for every byte, in `Active`; elsewhere it is refused. -/
def Obligations.SendCommandSendsOneCommandFrame : Prop :=
  (∀ (b : Byte) (more : List Byte), decodeRequest (0x01 :: b :: more) = .ok (.sendCommand b, more)) ∧
  ∀ (s : State) (b : Byte), Calm s →
    (s.macroState = .active → Succeeds (.sendCommand b) s .active (Trace.command b) s.samples s.rst (some false)) ∧
    (s.macroState ≠ .active → Refused (.sendCommand b) s)

/-- R111: `SEND_DATA b` sends `D(b)` for every byte, in `Active`; elsewhere it is refused. -/
def Obligations.SendDataSendsOneDataFrame : Prop :=
  (∀ (b : Byte) (more : List Byte), decodeRequest (0x02 :: b :: more) = .ok (.sendData b, more)) ∧
  ∀ (s : State) (b : Byte), Calm s →
    (s.macroState = .active → Succeeds (.sendData b) s .active (Trace.data b) s.samples s.rst (some true)) ∧
    (s.macroState ≠ .active → Refused (.sendData b) s)

/-- R120: `RESET` makes its six events in every macro-state; `RST` is 1 after it, `CS` and `DC` untouched, no sample taken;
`MACRO` becomes `Active` from `DeepSleep` and is unchanged otherwise. -/
def Obligations.ResetPulsesTheResetLine : Prop :=
  (∀ more : List Byte, decodeRequest (0x03 :: more) = .ok (.reset, more)) ∧
  ∀ s : State, Calm s → ∃ u, Runs .reset s u ∧
    Reports s u .ok (if s.macroState = .deepSleep then .active else s.macroState) 0b0000
      [.rst true, .delay 50, .rst false, .delay 2, .rst true, .delay 50] s.samples ∧
    Pins u (some true) s.cs s.dc

/-- R121: `WAIT_FREE` in every macro-state: `BUSY?(1) DELAY(10)` for each busy sample, then `BUSY?(0)`; `MACRO` and the output
pins unchanged, bit 3 of `PINS` the last sample. -/
def Obligations.WaitFreePollsUntilIdle : Prop :=
  (∀ more : List Byte, decodeRequest (0x04 :: more) = .ok (.waitFree, more)) ∧
  ∀ (s : State) (k : Nat) (rest : List Level), Calm s → s.samples = List.replicate k true ++ false :: rest → s.admits k →
    ∃ u, Runs .waitFree s u ∧ Reports s u .ok s.macroState 0b0000 (Trace.wait k) rest ∧ Pins u s.rst s.cs s.dc ∧
      u.lastBusy = false

/-- R124, R193: with `POLL_LIMIT = n`, a `WAIT_FREE` whose `n` samples all read 1 ends with `SyncTimeout` after `n` samples and
`n - 1` delays. -/
def Obligations.WaitFreeTimesOutAtTheLimit : Prop :=
  ∀ (s : State) (n : Nat) (rest : List Level), Calm s → s.cfg.pollLimit = some n →
    s.samples = List.replicate n true ++ rest →
    TimesOut .waitFree s (Trace.timeout n) rest ∧
    (Trace.timeout n).count (.busy true) = n ∧ (Trace.timeout n).count (.delay 10) = n - 1

/-- R193, R198: in any operation, a busy sample that reaches the limit ends the request: what remains of the micro-sequence is
dropped, `MACRO` and the output pins are unchanged, `RESULT` and `EFLAGS` bit 1 say so. That the sample, its count and the
completion are one step is the model's choice (log entry 1), and so is the list the sample is taken from (log entry 5). -/
def Obligations.TimeoutDropsTheRestOfAnyOperation : Prop :=
  ∀ (s : State) (rest : List Micro) (left : List Level), s.cfg.Legal → s.ready = false → s.moves = [] →
    s.todo = .poll :: rest → s.samples = true :: left → s.cfg.pollLimit = some (s.polls + 1) →
    ∃ t, step s = .next t ∧ t.todo = [] ∧
      Reports s t .syncTimeout s.macroState 0b0010 [.busy true] left ∧ Pins t s.rst s.cs s.dc

/-- R125, R208: with no limit, a wait of any operation goes on as long as the samples read 1: after `k` of them the trace has
`k` polls, the operation is still in progress with the poll to come, and no status has changed. -/
def Obligations.UnboundedWaitGoesOnWhileBusy : Prop :=
  ∀ (s : State) (rest : List Micro) (k : Nat) (more : List Level), s.cfg.Legal → s.ready = false → s.moves = [] →
    s.todo = .waitFree :: rest → s.cfg.pollLimit = none → s.samples = List.replicate k true ++ more →
    ∃ t, Reaches s t ∧ t.todo = .poll :: rest ∧ t.ready = false ∧ t.trace = s.trace ++ Trace.busyPolls k ∧
      t.samples = more ∧ t.macroState = s.macroState ∧ t.result = s.result ∧ t.eflags = s.eflags

/-- R130, R83, R84: `SET_WINDOW` sends its eight frames for all operands, takes no sample, in `Active`; elsewhere it is refused. -/
def Obligations.SetWindowSendsEightFrames : Prop :=
  (∀ (xs ys xe ye : Half) (more : List Byte),
    decodeRequest (0x05 :: BitVec.ofNat 8 (xs.toNat % 256) :: BitVec.ofNat 8 (xs.toNat / 256) ::
      BitVec.ofNat 8 (ys.toNat % 256) :: BitVec.ofNat 8 (ys.toNat / 256) ::
      BitVec.ofNat 8 (xe.toNat % 256) :: BitVec.ofNat 8 (xe.toNat / 256) ::
      BitVec.ofNat 8 (ye.toNat % 256) :: BitVec.ofNat 8 (ye.toNat / 256) :: more) = .ok (.setWindow xs ys xe ye, more)) ∧
  ∀ (s : State) (xs ys xe ye : Half), Calm s →
    (s.macroState = .active →
      Succeeds (.setWindow xs ys xe ye) s .active
        (Trace.command 0x44 ++ Trace.data (BitVec.ofNat 8 (xs.toNat / 8)) ++ Trace.data (BitVec.ofNat 8 (xe.toNat / 8)) ++
         Trace.command 0x45 ++
         Trace.data (BitVec.ofNat 8 (ys.toNat % 256)) ++ Trace.data (BitVec.ofNat 8 (ys.toNat / 256)) ++
         Trace.data (BitVec.ofNat 8 (ye.toNat % 256)) ++ Trace.data (BitVec.ofNat 8 (ye.toNat / 256)))
        s.samples s.rst (some true)) ∧
    (s.macroState ≠ .active → Refused (.setWindow xs ys xe ye) s)

/-- R131, R84, R85: `SET_CURSOR` sends its five frames and then waits; at the limit it times out with the frames sent. -/
def Obligations.SetCursorSendsFiveFramesAndWaits : Prop :=
  (∀ (x y : Half) (more : List Byte),
    decodeRequest (0x06 :: BitVec.ofNat 8 (x.toNat % 256) :: BitVec.ofNat 8 (x.toNat / 256) ::
      BitVec.ofNat 8 (y.toNat % 256) :: BitVec.ofNat 8 (y.toNat / 256) :: more) = .ok (.setCursor x y, more)) ∧
  ∀ (s : State) (x y : Half) (rest : List Level), Calm s →
    (s.macroState = .active →
      (∀ k, s.samples = List.replicate k true ++ false :: rest → s.admits k →
        Succeeds (.setCursor x y) s .active (Trace.cursor x.toNat y.toNat ++ Trace.wait k) rest s.rst (some true)) ∧
      (∀ n, s.cfg.pollLimit = some n → s.samples = List.replicate n true ++ rest →
        TimesOut (.setCursor x y) s (Trace.cursor x.toNat y.toNat ++ Trace.timeout n) rest)) ∧
    (s.macroState ≠ .active → Refused (.setCursor x y) s)

/-- R140: `SEND_LUT` sends `C(0x32)`, the 153 bytes of the table in order, and then waits. -/
def Obligations.SendLutSendsTheWholeTableAndWaits : Prop :=
  (∀ more : List Byte, decodeRequest (0x07 :: more) = .ok (.sendLut, more)) ∧
  ∀ (s : State) (rest : List Level), Calm s →
    (s.macroState = .active →
      (∀ k, s.samples = List.replicate k true ++ false :: rest → s.admits k →
        Succeeds .sendLut s .active (Trace.lut s.cfg ++ Trace.wait k) rest s.rst (some true)) ∧
      (∀ n, s.cfg.pollLimit = some n → s.samples = List.replicate n true ++ rest →
        TimesOut .sendLut s (Trace.lut s.cfg ++ Trace.timeout n) rest) ∧
      (Trace.lut s.cfg).count (.dc true) = 153) ∧
    (s.macroState ≠ .active → Refused .sendLut s)

/-- R151: `ON p` sends `0x22` with `0x0F` when bit 0 of the operand is 1 and with `0xF7` when it is 0, then `0x20`, then waits. -/
def Obligations.OnSelectsTheWaveformAndActivates : Prop :=
  (∀ (p : Byte) (more : List Byte), decodeRequest (0x08 :: p :: more) = .ok (.on p, more)) ∧
  ∀ (s : State) (p : Byte) (rest : List Level), Calm s →
    (s.macroState = .active →
      (∀ k, s.samples = List.replicate k true ++ false :: rest → s.admits k →
        Succeeds (.on p) s .active
          (Trace.activation (if p.getLsbD 0 then 0x0F else 0xF7) ++ Trace.wait k) rest s.rst (some false)) ∧
      (∀ n, s.cfg.pollLimit = some n → s.samples = List.replicate n true ++ rest →
        TimesOut (.on p) s (Trace.activation (if p.getLsbD 0 then 0x0F else 0xF7) ++ Trace.timeout n) rest)) ∧
    (s.macroState ≠ .active → Refused (.on p) s)

/-- The frames of `PREPARE_DISPLAY` between its second and its third wait (R152, R133). -/
def prepareFrames (c : Config) : List Event :=
  Trace.command 0x01 ++ Trace.data c.doc0 ++ Trace.data c.doc1 ++ Trace.data c.doc2 ++
  Trace.command 0x11 ++ Trace.data c.dem ++
  Trace.window 0 0 (c.width - 1) (c.height - 1) ++
  Trace.command 0x21 ++ Trace.data c.duc0 ++ Trace.data c.duc1 ++
  Trace.cursor 0 0

/-- R152: `PREPARE_DISPLAY`, legal in every macro-state, makes its pulse, its 23 frames and its three waits in order and
leaves `Active`; a timeout in any of the waits leaves `MACRO` as it was. -/
def Obligations.PrepareDisplayInitialisesThePanel : Prop :=
  (∀ more : List Byte, decodeRequest (0x10 :: more) = .ok (.prepareDisplay, more)) ∧
  ∀ (s : State) (rest : List Level) (k1 k2 : Nat), Calm s → s.admits k1 → s.admits k2 →
    (∀ k3, s.admits k3 →
      s.samples = List.replicate k1 true ++ false :: (List.replicate k2 true ++ false ::
        (List.replicate k3 true ++ false :: rest)) →
      Succeeds .prepareDisplay s .active
        (Trace.resetPulse ++ Trace.wait k1 ++ Trace.command 0x12 ++ Trace.wait k2 ++ prepareFrames s.cfg ++ Trace.wait k3)
        rest (some true) (some true)) ∧
    (∀ n, s.cfg.pollLimit = some n →
      (s.samples = List.replicate n true ++ rest →
        TimesOut .prepareDisplay s (Trace.resetPulse ++ Trace.timeout n) rest) ∧
      (s.samples = List.replicate k1 true ++ false :: (List.replicate n true ++ rest) →
        TimesOut .prepareDisplay s (Trace.resetPulse ++ Trace.wait k1 ++ Trace.command 0x12 ++ Trace.timeout n) rest) ∧
      (s.samples = List.replicate k1 true ++ false :: (List.replicate k2 true ++ false :: (List.replicate n true ++ rest)) →
        TimesOut .prepareDisplay s
          (Trace.resetPulse ++ Trace.wait k1 ++ Trace.command 0x12 ++ Trace.wait k2 ++ prepareFrames s.cfg ++
            Trace.timeout n) rest))

/-- R153, R150, R61, R64: `DISPLAY_IMAGE` with the present bit sends the framebuffer in ascending address order, each byte read
just before its frame, then the full activation; without the bit it is `MissingImage` with no event. -/
def Obligations.DisplayImageStreamsTheFramebuffer : Prop :=
  (∀ (f : Byte) (more : List Byte), decodeRequest (0x11 :: f :: more) = .ok (.displayImage f, more)) ∧
  ∀ (s : State) (f : Byte) (rest : List Level), Calm s → f.getLsbD 0 = true →
    (s.macroState = .active →
      (∀ k, s.samples = List.replicate k true ++ false :: rest → s.admits k →
        Succeeds (.displayImage f) s .active
          (Trace.fbBurst 0x24 s.fb s.cfg.bufLen ++ Trace.activation 0xF7 ++ Trace.wait k) rest s.rst (some false)) ∧
      (∀ n, s.cfg.pollLimit = some n → s.samples = List.replicate n true ++ rest →
        TimesOut (.displayImage f) s
          (Trace.fbBurst 0x24 s.fb s.cfg.bufLen ++ Trace.activation 0xF7 ++ Trace.timeout n) rest)) ∧
    (s.macroState ≠ .active → Refused (.displayImage f) s)

/-- R154: `DISPLAY_BASE` sends the framebuffer to bank `0x24` and then, with the same bytes, to bank `0x26`, then the full
activation. -/
def Obligations.DisplayBaseWritesBothBanks : Prop :=
  (∀ (f : Byte) (more : List Byte), decodeRequest (0x12 :: f :: more) = .ok (.displayBase f, more)) ∧
  ∀ (s : State) (f : Byte) (rest : List Level), Calm s → f.getLsbD 0 = true →
    (s.macroState = .active →
      (∀ k, s.samples = List.replicate k true ++ false :: rest → s.admits k →
        Succeeds (.displayBase f) s .active
          (Trace.fbBurst 0x24 s.fb s.cfg.bufLen ++ Trace.fbBurst 0x26 s.fb s.cfg.bufLen ++ Trace.activation 0xF7 ++
            Trace.wait k) rest s.rst (some false)) ∧
      (∀ n, s.cfg.pollLimit = some n → s.samples = List.replicate n true ++ rest →
        TimesOut (.displayBase f) s
          (Trace.fbBurst 0x24 s.fb s.cfg.bufLen ++ Trace.fbBurst 0x26 s.fb s.cfg.bufLen ++ Trace.activation 0xF7 ++
            Trace.timeout n) rest)) ∧
    (s.macroState ≠ .active → Refused (.displayBase f) s)

/-- The frames of `DISPLAY_PARTIAL` between its first and its second wait (R155). -/
def partialFrames (c : Config) : List Event :=
  Trace.command 0x37 ++ Trace.dataBytes [0x00, 0x00, 0x00, 0x00, 0x00, 0x40, 0x00, 0x00, 0x00, 0x00] ++
  Trace.command 0x3C ++ Trace.data 0x80 ++
  Trace.command 0x22 ++ Trace.data 0xC0 ++
  Trace.command 0x20 ++
  Trace.window 0 0 (c.width - 1) (c.height - 1) ++
  Trace.cursor 0 0

/-- R155: `DISPLAY_PARTIAL`: the soft pulse, the table, both selector bytes in order, full window and cursor, the burst to bank
`0x24` and the partial activation, with its three waits; a timeout in any of them keeps the events already emitted. -/
def Obligations.DisplayPartialRefreshesWithTheTable : Prop :=
  (∀ (f : Byte) (more : List Byte), decodeRequest (0x13 :: f :: more) = .ok (.displayPartial f, more)) ∧
  ∀ (s : State) (f : Byte) (rest : List Level) (k1 k2 : Nat), Calm s → f.getLsbD 0 = true → s.admits k1 → s.admits k2 →
    (s.macroState = .active →
      (∀ k3, s.admits k3 →
        s.samples = List.replicate k1 true ++ false :: (List.replicate k2 true ++ false ::
          (List.replicate k3 true ++ false :: rest)) →
        Succeeds (.displayPartial f) s .active
          (Trace.softPulse ++ Trace.lut s.cfg ++ Trace.wait k1 ++ partialFrames s.cfg ++ Trace.wait k2 ++
            Trace.fbBurst 0x24 s.fb s.cfg.bufLen ++ Trace.activation 0x0F ++ Trace.wait k3)
          rest (some true) (some false)) ∧
      (∀ n, s.cfg.pollLimit = some n →
        (s.samples = List.replicate n true ++ rest →
          TimesOut (.displayPartial f) s (Trace.softPulse ++ Trace.lut s.cfg ++ Trace.timeout n) rest) ∧
        (s.samples = List.replicate k1 true ++ false :: (List.replicate n true ++ rest) →
          TimesOut (.displayPartial f) s
            (Trace.softPulse ++ Trace.lut s.cfg ++ Trace.wait k1 ++ partialFrames s.cfg ++ Trace.timeout n) rest) ∧
        (s.samples = List.replicate k1 true ++ false :: (List.replicate k2 true ++ false :: (List.replicate n true ++ rest)) →
          TimesOut (.displayPartial f) s
            (Trace.softPulse ++ Trace.lut s.cfg ++ Trace.wait k1 ++ partialFrames s.cfg ++ Trace.wait k2 ++
              Trace.fbBurst 0x24 s.fb s.cfg.bufLen ++ Trace.activation 0x0F ++ Trace.timeout n) rest))) ∧
    (s.macroState ≠ .active → Refused (.displayPartial f) s)

/-- R156: `CLEAR color` sends `BUF_LEN` copies of the byte to bank `0x24` without a framebuffer read, then the full activation. -/
def Obligations.ClearFillsTheWindowWithOneByte : Prop :=
  (∀ (c : Byte) (more : List Byte), decodeRequest (0x14 :: c :: more) = .ok (.clear c, more)) ∧
  ∀ (s : State) (color : Byte) (rest : List Level), Calm s →
    (s.macroState = .active →
      (∀ k, s.samples = List.replicate k true ++ false :: rest → s.admits k →
        Succeeds (.clear color) s .active
          (Trace.constBurst 0x24 color s.cfg.bufLen ++ Trace.activation 0xF7 ++ Trace.wait k) rest s.rst (some false)) ∧
      (∀ n, s.cfg.pollLimit = some n → s.samples = List.replicate n true ++ rest →
        TimesOut (.clear color) s
          (Trace.constBurst 0x24 color s.cfg.bufLen ++ Trace.activation 0xF7 ++ Trace.timeout n) rest)) ∧
    (s.macroState ≠ .active → Refused (.clear color) s)

/-- R157: `POWER_DOWN` sends `0x10` with `0x01`, waits 2000 ms, drives `RST` low and leaves `DeepSleep`, whatever `busy` does. -/
def Obligations.PowerDownPutsThePanelToSleep : Prop :=
  (∀ more : List Byte, decodeRequest (0x15 :: more) = .ok (.powerDown, more)) ∧
  ∀ s : State, Calm s →
    (s.macroState = .active →
      Succeeds .powerDown s .deepSleep
        (Trace.command 0x10 ++ Trace.data 0x01 ++ [.delay 2000, .rst false]) s.samples (some false) (some true)) ∧
    (s.macroState ≠ .active → Refused .powerDown s)

/-- R158, R192, R197: a display operation without the present bit, in `Active`, makes no wire event and ends with
`MissingImage`; out of `Active` it is `IllegalRequest`. -/
def Obligations.AbsentImageIsReportedWithoutAnyEvent : Prop :=
  ∀ (s : State) (f : Byte) (i : Instr), Calm s → f.getLsbD 0 = false →
    i ∈ [Instr.displayImage f, .displayBase f, .displayPartial f] →
    (s.macroState = .active →
      ∃ u, Runs i s u ∧ Reports s u .missingImage .active 0b0001 [] s.samples ∧ Pins u s.rst s.cs s.dc) ∧
    (s.macroState ≠ .active → Refused i s)

/-- R92, R195: a code no operation has is a request of one byte, accepted in every macro-state, without a wire event, completed
with `IllegalRequest`. -/
def Obligations.ReservedRequestIsIllegal : Prop :=
  ∀ (s : State) (code : Byte) (more : List Byte), Calm s →
    code ∉ ([0x01, 0x02, 0x03, 0x04, 0x05, 0x06, 0x07, 0x08, 0x10, 0x11, 0x12, 0x13, 0x14, 0x15] : List Byte) →
    decodeRequest (code :: more) = .ok (.reservedRequest code, more) ∧ Refused (.reservedRequest code) s

/-! ## Wire symbols -/

/-- R80, R170 to R185: every 9-bit symbol is sent as the frame of its bit 8 and its bits 7:0, one event a step (R39); so each of the
eighteen rows of wire symbols is sent as its frame. `SEQ_PC` advances with each event (R23). The levels `SCK` and `MOSI` are left at
are R88's and R27's, whose bit-level convention is decision D1 (log entry 15, PRESUMED); that a symbol is an instruction the core
executes inside an operation is log entry 8. -/
def Obligations.WireSymbolsAreSentAsFrames : Prop :=
  ∀ s : State, s.cfg.Legal → s.ready = false → s.moves = [] →
    (∀ w : BitVec 9, SendsFrame (decodeSymbol w) (w.getLsbD 8) (w.setWidth 8) s) ∧
    SendsFrame .driverOutputControl false 0x01 s ∧ SendsFrame .deepSleepMode false 0x10 s ∧
    SendsFrame .dataEntryMode false 0x11 s ∧ SendsFrame .softwareReset false 0x12 s ∧
    SendsFrame .masterActivation false 0x20 s ∧ SendsFrame .displayUpdateControl false 0x21 s ∧
    SendsFrame .displayUpdateControl2 false 0x22 s ∧ SendsFrame .writeRamA false 0x24 s ∧
    SendsFrame .writeRamB false 0x26 s ∧ SendsFrame .writeLut false 0x32 s ∧
    SendsFrame .gateBorderConfig false 0x37 s ∧ SendsFrame .borderWaveform false 0x3C s ∧
    SendsFrame .setRamXRange false 0x44 s ∧ SendsFrame .setRamYRange false 0x45 s ∧
    SendsFrame .setRamXCounter false 0x4E s ∧ SendsFrame .setRamYCounter false 0x4F s ∧
    (∀ b, SendsFrame (.dataFrame b) true b s) ∧ (∀ b, SendsFrame (.commandFrameRaw b) false b s)

/-- The frame of a wire symbol's own step: whenever `exec` of one answers a next state, one event has been emitted, `DC` alone
of the pins may have changed, and no status, latch, counter or byte of the framebuffer has. -/
def Obligations.WireSymbolsTouchOnlyTheTransport : Prop :=
  ∀ (i : Instr) (s t : State), i.isRequest = false → exec i s = .next t →
    t.cfg = s.cfg ∧ t.macroState = s.macroState ∧ t.a0 = s.a0 ∧ t.a1 = s.a1 ∧ t.a2 = s.a2 ∧ t.a3 = s.a3 ∧ t.op = s.op ∧
    t.row = s.row ∧ t.col = s.col ∧ t.polls = s.polls ∧ t.rst = s.rst ∧ t.cs = s.cs ∧ t.sck = s.sck ∧ t.mosi = s.mosi ∧
    t.lastBusy = s.lastBusy ∧ t.ready = s.ready ∧ t.result = s.result ∧ t.eflags = s.eflags ∧
    t.seqPc = s.seqPc + 1 ∧ (∃ l, t.dc = some l ∧ t.trace = s.trace ++ [.dc l]) ∧
    (∀ a, Memory.read t.fb a = Memory.read s.fb a)

/-- R186: no operation but `SEND_COMMAND` loads a command symbol whose byte is not one of the sixteen opcodes. -/
def Obligations.SequencesEmitOnlyPanelOpcodes : Prop :=
  ∀ (i : Instr) (s t : State) (w : BitVec 9), s.ready = true → i.isRequest = true → (∀ b, i ≠ .sendCommand b) →
    exec i s = .next t → .symbol w ∈ t.todo → symbolLevel w = false →
    symbolByte w ∈
      ([0x01, 0x10, 0x11, 0x12, 0x20, 0x21, 0x22, 0x24, 0x26, 0x32, 0x37, 0x3C, 0x44, 0x45, 0x4E, 0x4F] : List Byte)

/-- How often a request's micro-sequence sends `C(b)` for each opcode, in the order of R187's rows. -/
def commandCounts (i : Instr) (s : State) : Option (List Nat) :=
  match exec i s with
  | .next t => some
      (([0x01, 0x10, 0x11, 0x12, 0x20, 0x21, 0x22, 0x24, 0x26, 0x32, 0x37, 0x3C, 0x44, 0x45, 0x4E, 0x4F] : List Byte).map
        fun b => t.todo.count (.symbol (commandSymbol b)))
  | .fault _ => none
  | .refused _ => none

/-- R187: the emission matrix, one column an operation. -/
def Obligations.EmissionMatrix : Prop :=
  ∀ (s : State) (f c : Byte) (xs ys xe ye : Half), s.ready = true →
    commandCounts .prepareDisplay s = some [1, 0, 1, 1, 0, 1, 0, 0, 0, 0, 0, 0, 1, 1, 1, 1] ∧
    commandCounts (.displayImage f) s = some [0, 0, 0, 0, 1, 0, 1, 1, 0, 0, 0, 0, 0, 0, 0, 0] ∧
    commandCounts (.displayBase f) s = some [0, 0, 0, 0, 1, 0, 1, 1, 1, 0, 0, 0, 0, 0, 0, 0] ∧
    commandCounts (.displayPartial f) s = some [0, 0, 0, 0, 2, 0, 2, 1, 0, 1, 1, 1, 1, 1, 1, 1] ∧
    commandCounts (.clear c) s = some [0, 0, 0, 0, 1, 0, 1, 1, 0, 0, 0, 0, 0, 0, 0, 0] ∧
    commandCounts .powerDown s = some [0, 1, 0, 0, 0, 0, 0, 0, 0, 0, 0, 0, 0, 0, 0, 0] ∧
    commandCounts (.setWindow xs ys xe ye) s = some [0, 0, 0, 0, 0, 0, 0, 0, 0, 0, 0, 0, 1, 1, 0, 0] ∧
    commandCounts (.setCursor xs ys) s = some [0, 0, 0, 0, 0, 0, 0, 0, 0, 0, 0, 0, 0, 0, 1, 1] ∧
    commandCounts .sendLut s = some [0, 0, 0, 0, 0, 0, 0, 0, 0, 1, 0, 0, 0, 0, 0, 0] ∧
    commandCounts (.on f) s = some [0, 0, 0, 0, 1, 0, 1, 0, 0, 0, 0, 0, 0, 0, 0, 0]

/-! ## Status registers, completion, whole-machine rules -/

/-- R31, R21, R29: the five status registers in every state; there is no other. Of `PINS`, the bits of the `RST` and `DC` latches
are stated only where the latch holds a value: what they show otherwise is free (log entry 17). -/
def Obligations.StatusRegistersHaveTheirLayout : Prop :=
  ∀ s : State,
    (∃ v, s.readRegister 0 = some v ∧
      v.toNat = s.ready.toNat +
        2 * (if s.macroState = .uninitialized then 0 else if s.macroState = .active then 1 else 2) +
        8 * (if s.result = .ok then 0 else if s.result = .missingImage then 1 else if s.result = .syncTimeout then 2
              else if s.result = .illegalRequest then 3 else 4)) ∧
    (∃ v, s.readRegister 1 = some v ∧ v.toNat = s.eflags.toNat % 8) ∧
    (∃ v, s.readRegister 4 = some v ∧
      (∀ l, s.rst = some l → v.getLsbD 0 = l) ∧ v.getLsbD 1 = s.cs ∧ (∀ l, s.dc = some l → v.getLsbD 2 = l) ∧
      v.getLsbD 3 = s.lastBusy ∧ (∀ k, 4 ≤ k → v.getLsbD k = false)) ∧
    (s.cfg.Legal → ∃ w h, s.readRegister 2 = some w ∧ s.readRegister 3 = some h ∧
      w.toNat + 1 = s.cfg.width ∧ h.toNat + 1 = s.cfg.height) ∧
    (∀ n, 4 < n → s.readRegister n = none)

/-- R40, R41: an operation whose micro-sequence is at its end completes in one step with `OK`: the macro-state is the table's,
`READY` is 1, no event is emitted, `EFLAGS`, the pins, the latches and the framebuffer are unchanged. -/
def Obligations.CompletionIsOneStep : Prop :=
  ∀ s : State, s.cfg.Legal → s.ready = false → s.moves = [] → s.todo = [] →
    ∃ t, step s = .next t ∧ Reports s t .ok t.macroState 0b0000 [] s.samples ∧ Pins t s.rst s.cs s.dc ∧ t.todo = [] ∧
      t.a0 = s.a0 ∧ t.a1 = s.a1 ∧ t.a2 = s.a2 ∧ t.a3 = s.a3 ∧
      (s.op = 0x10 → t.macroState = .active) ∧
      (s.op = 0x03 → t.macroState = if s.macroState = .uninitialized then .uninitialized else .active) ∧
      (s.op = 0x04 → t.macroState = s.macroState) ∧
      (s.op = 0x15 → s.macroState = .active → t.macroState = .deepSleep) ∧
      (s.op ∈ ([0x01, 0x02, 0x05, 0x06, 0x07, 0x08, 0x11, 0x12, 0x13, 0x14] : List Byte) → s.macroState = .active →
        t.macroState = .active)

/-- R40, R41, R95 property 8: `MACRO` changes only in the `OK` completion of `PREPARE_DISPLAY`, `RESET` or `POWER_DOWN`, or by
core reset; `DeepSleep` is left only by the first two or core reset. -/
def Obligations.MacroStateChangesOnlyAtOkCompletion : Prop :=
  ∀ s t : State, step s = .next t → t.macroState ≠ s.macroState →
    (s.ready = false ∧ s.todo = [] ∧ t.ready = true ∧ t.result = .ok ∧
      ((t.macroState = .active ∧ (s.op = 0x10 ∨ s.op = 0x03)) ∨ (t.macroState = .deepSleep ∧ s.op = 0x15))) ∨
    (s.moves.head? = some .coreReset ∧ t.macroState = .uninitialized)

/-- R30, R194: no step but core reset clears a bit of `EFLAGS`, and none sets bit 3. -/
def Obligations.ErrorFlagsAreSticky : Prop :=
  ∀ s t : State, step s = .next t → s.moves.head? ≠ some .coreReset →
    s.eflags &&& t.eflags = s.eflags ∧ (t.eflags.getLsbD 3 = s.eflags.getLsbD 3)

/-- R39, R11: a step adds at most one event, at the end of the trace; only core reset empties it. -/
def Obligations.AtMostOneEventAStep : Prop :=
  ∀ s t : State, step s = .next t →
    t.trace = s.trace ∨ (∃ e, t.trace = s.trace ++ [e]) ∨ (s.moves.head? = some .coreReset ∧ t.trace = [])

/-- R23: within an operation `SEQ_PC` advances by one for each event, moves backwards only with the delay of the poll loop, and
does not move without an event. -/
def Obligations.SequencerPositionFollowsTheEvents : Prop :=
  ∀ s t : State, s.ready = false → s.moves = [] → step s = .next t →
    (t.trace = s.trace → t.seqPc = s.seqPc) ∧
    (∀ e, t.trace = s.trace ++ [e] → s.todo.head? ≠ some .pollDelay → t.seqPc = s.seqPc + 1) ∧
    (s.todo.head? = some .pollDelay → t.seqPc = s.seqPc - 1)

/-- R22, R32, R35: within an operation no step writes a latch, `OP` or the configuration, and none but the host's write changes
a byte of the framebuffer. -/
def Obligations.OperationsWriteNoLatchOrMemory : Prop :=
  ∀ s t : State, step s = .next t →
    t.cfg = s.cfg ∧
    (s.ready = false → s.moves.head? ≠ some .coreReset →
      t.a0 = s.a0 ∧ t.a1 = s.a1 ∧ t.a2 = s.a2 ∧ t.a3 = s.a3 ∧ t.op = s.op) ∧
    ((∀ a v, s.moves.head? ≠ some (.writeFb a v)) → ∀ a, Memory.read t.fb a = Memory.read s.fb a)

/-! ## The framebuffer -/

/-- R62, R64, R61: one turn of a burst reads the byte at `COL + ROW * ROW_BYTES`, and the next thing the operation does is to
send it; the counters and the framebuffer are unchanged. -/
def Obligations.BurstReadsTheByteItSends : Prop :=
  ∀ (s : State) (rest : List Micro), s.cfg.Legal → s.ready = false → s.moves = [] → s.raced = [] →
    s.row.toNat < s.cfg.height → s.col.toNat < s.cfg.rowBytes →
    s.todo = .burstByte .framebuffer :: rest →
    ∃ t, step s = .next t ∧
      t.trace = s.trace ++ [.fbRead (s.col.toNat + s.row.toNat * s.cfg.rowBytes)
        (Memory.read s.fb (s.col.toNat + s.row.toNat * s.cfg.rowBytes))] ∧
      t.todo = .symbol (dataSymbol (Memory.read s.fb (s.col.toNat + s.row.toNat * s.cfg.rowBytes))) ::
        .burstNext .framebuffer :: rest ∧
      t.row = s.row ∧ t.col = s.col ∧ t.fb = s.fb ∧ t.rst = s.rst ∧ t.cs = s.cs ∧ t.dc = s.dc

/-- R24, R150: a burst advances height-major, then by column bytes, and ends after the last column byte of the last row. That the
advance is a step of its own is the model's choice (log entry 1). -/
def Obligations.BurstAdvancesRowByRow : Prop :=
  ∀ (s : State) (src : BurstSource) (rest : List Micro), s.cfg.Legal → s.ready = false → s.moves = [] →
    s.row.toNat < s.cfg.height → s.col.toNat < s.cfg.rowBytes → s.todo = .burstNext src :: rest →
    ∃ t, step s = .next t ∧ t.trace = s.trace ∧
      (s.col.toNat + 1 < s.cfg.rowBytes →
        t.row = s.row ∧ t.col.toNat = s.col.toNat + 1 ∧ t.todo = .burstByte src :: rest) ∧
      (s.col.toNat + 1 = s.cfg.rowBytes → s.row.toNat + 1 < s.cfg.height →
        t.row.toNat = s.row.toNat + 1 ∧ t.col = 0 ∧ t.todo = .burstByte src :: rest) ∧
      (s.col.toNat + 1 = s.cfg.rowBytes → s.row.toNat + 1 = s.cfg.height → t.todo = rest)

/-- The host's write (R68, R69 (3)): at `READY = 1` the core then reads the byte written; during an operation it reads the new or
the old byte, and after several writes to one address in one operation the new byte or any they replaced (log entry 6); every
other address reads as before. Outside `BUF_LEN` nothing is mapped (R72); that the host's write there faults is the model's
(log entry 18), the hardware has no access fault (R74). -/
def Obligations.HostWriteIsReadBackOrRaces : Prop :=
  ∀ (s : State) (a : Nat) (v : Byte) (rest : List HostMove), s.cfg.Legal → Memory.wf s.fb →
    s.moves = .writeFb a v :: rest →
    (a < s.cfg.bufLen → ∃ t, step s = .next t ∧ Memory.wf t.fb ∧ Memory.read t.fb a = v ∧
      (∀ b, b ≠ a → Memory.read t.fb b = Memory.read s.fb b) ∧
      (s.raced = [] → s.ready = true → t.fbValue a = v) ∧
      (s.raced = [] → s.ready = false → t.fbValue a = v ∨ t.fbValue a = Memory.read s.fb a) ∧
      (s.ready = false → t.fbValue a = v ∨ t.fbValue a = Memory.read s.fb a ∨ t.fbValue a ∈ s.racedAt a) ∧
      (∀ b, b ≠ a → t.fbValue b = s.fbValue b)) ∧
    (s.cfg.bufLen ≤ a → step s = .fault (.noSuchFramebufferByte a))

/-! ## Invariants and headline results -/

/-- The invariant holds at reset. -/
def Obligations.ResetMeetsTheInvariant : Prop := Invariant State.reset

/-- Every step keeps the invariant: the framing contract of the whole trace (R112), `chip_select` inactive outside a frame, the
canonical framebuffer, the ranges of the burst counters (R24), no read at or above `BUF_LEN` (R74), `EFLAGS` bit 3 clear. -/
def Obligations.EveryStepKeepsTheInvariant : Prop :=
  ∀ s t : State, Invariant s → step s = .next t → Invariant t

/-- R74: under the invariant the core never faults; only a host write outside the framebuffer does, which is the model's (log
entry 18). -/
def Obligations.NoFaultUnderTheInvariant : Prop :=
  ∀ (s : State) (r : Fault), Invariant s → step s = .fault r →
    ∃ a v, s.moves.head? = some (.writeFb a v) ∧ s.cfg.bufLen ≤ a ∧ r = .noSuchFramebufferByte a

/-- R124 and 95 property 10: with a poll limit every operation completes, whatever the panel's samples are. -/
def Obligations.EveryOperationCompletesUnderAPollLimit : Prop :=
  ∀ (s : State) (n : Nat), Invariant s → s.moves = [] → s.ready = false → s.cfg.pollLimit = some n →
    ∃ u, Reaches s u ∧ u.ready = true
end

