-- ==== Sys2Proof/Laws/Decode.lean ====
section
/-!
SUPPORT. What the decoders can answer: one inversion lemma each, and what the field helpers do to each other.
-/

namespace Sys2Proof

/-! ## Looking a row up -/

theorem lookup_some {α : Type} {rows : List (Byte × α)} {b : Byte} {x : α} (h : rows.lookup b = some x) : (b, x) ∈ rows := by
  induction rows with
  | nil => cases h
  | cons r rows ih =>
    obtain ⟨c, y⟩ := r
    rw [List.lookup_cons] at h
    split at h
    · rename_i e
      rw [beq_iff_eq] at e
      cases h
      exact e ▸ List.mem_cons_self
    · exact List.mem_cons_of_mem _ (ih h)

theorem lookup_none {α : Type} {rows : List (Byte × α)} {b : Byte} (h : rows.lookup b = none) :
    ∀ r ∈ rows, r.1 ≠ b := by
  induction rows with
  | nil => simp
  | cons r rows ih =>
    obtain ⟨c, y⟩ := r
    rw [List.lookup_cons] at h
    split at h
    · cases h
    · rename_i e
      simp only [beq_eq_false_iff_ne, ne_eq] at e
      intro r hr
      rcases List.mem_cons.1 hr with rfl | hr
      · exact fun hc => e hc.symm
      · exact ih h r hr

/-! ## The symbol helpers (R80) -/

theorem symbol_command (b : Byte) : symbolLevel (commandSymbol b) = false ∧ symbolByte (commandSymbol b) = b := by
  constructor
  · simp [symbolLevel, commandSymbol, BitVec.getLsbD_of_ge]
  · simp [symbolByte, commandSymbol]

theorem symbol_data (b : Byte) : symbolLevel (dataSymbol b) = true ∧ symbolByte (dataSymbol b) = b := by
  constructor
  · simp [symbolLevel, dataSymbol]
  · ext i hi
    simp only [symbolByte, dataSymbol]
    interval_cases i <;> simp

/-! ## Inversion -/

/-- A wire symbol is a data frame, a row of the command opcodes, or a command frame whose byte is in no row. -/
theorem decodeSymbol_cases (w : BitVec 9) :
    (symbolLevel w = true ∧ decodeSymbol w = .dataFrame (symbolByte w)) ∨
    (symbolLevel w = false ∧
      ((∃ i, (symbolByte w, i) ∈ panelRows ∧ decodeSymbol w = i) ∨
       ((∀ r ∈ panelRows, r.1 ≠ symbolByte w) ∧ decodeSymbol w = .commandFrameRaw (symbolByte w)))) := by
  unfold decodeSymbol
  cases h : symbolLevel w
  · refine .inr ⟨rfl, ?_⟩
    cases e : panelRows.lookup (symbolByte w) with
    | some i => exact .inl ⟨i, lookup_some e, by simp⟩
    | none => exact .inr ⟨lookup_none e, by simp⟩
  · exact .inl ⟨rfl, by simp⟩

/-- A request is read by the row of its code, or its code is in no row and it is reserved. -/
theorem decodeRequest_cons (code : Byte) (more : List Byte) :
    (∃ operands, (code, operands) ∈ requestRows ∧ decodeRequest (code :: more) = operands more) ∨
    ((∀ r ∈ requestRows, r.1 ≠ code) ∧ decodeRequest (code :: more) = .ok (.reservedRequest code, more)) := by
  cases e : requestRows.lookup code with
  | some operands => exact .inl ⟨operands, lookup_some e, by simp [decodeRequest, e]⟩
  | none => exact .inr ⟨lookup_none e, by simp [decodeRequest, e]⟩

theorem byteOperand_ok {code : Byte} {mk : Byte → Instr} {bytes rest : List Byte} {i : Instr}
    (h : byteOperand code mk bytes = .ok (i, rest)) : ∃ b, i = mk b ∧ bytes = b :: rest := by
  cases bytes with
  | nil => cases h
  | cons b more =>
    cases h
    exact ⟨b, rfl, rfl⟩

theorem windowOperands_ok {bytes rest : List Byte} {i : Instr} (h : windowOperands bytes = .ok (i, rest)) :
    ∃ s s' t t' e e' f f', bytes = s :: s' :: t :: t' :: e :: e' :: f :: f' :: rest ∧
      i = .setWindow (joinHalf s s') (joinHalf t t') (joinHalf e e') (joinHalf f f') := by
  unfold windowOperands at h
  split at h
  · cases h
    exact ⟨_, _, _, _, _, _, _, _, rfl, rfl⟩
  · cases h

theorem cursorOperands_ok {bytes rest : List Byte} {i : Instr} (h : cursorOperands bytes = .ok (i, rest)) :
    ∃ x x' y y', bytes = x :: x' :: y :: y' :: rest ∧ i = .setCursor (joinHalf x x') (joinHalf y y') := by
  unfold cursorOperands at h
  split at h
  · cases h
    exact ⟨_, _, _, _, rfl, rfl⟩
  · cases h

/-! ## The byte order of an operand (R90) -/

theorem joinHalf_toNat (lo hi : Byte) : (joinHalf lo hi).toNat = lo.toNat + 256 * hi.toNat := by
  unfold joinHalf
  rw [BitVec.toNat_append, ← Nat.shiftLeft_add_eq_or_of_lt lo.isLt, Nat.shiftLeft_eq]
  omega

theorem lowByte_toNat (v : Half) : (lowByte v).toNat = v.toNat % 256 := BitVec.toNat_setWidth _ _

theorem highByte_toNat (v : Half) : (highByte v).toNat = v.toNat / 256 := by
  unfold highByte
  rw [BitVec.toNat_setWidth, BitVec.toNat_ushiftRight, Nat.shiftRight_eq_div_pow]
  have := v.isLt
  omega

theorem joinHalf_low_high (v : Half) : joinHalf (lowByte v) (highByte v) = v := by
  apply BitVec.eq_of_toNat_eq
  rw [joinHalf_toNat, lowByte_toNat, highByte_toNat]
  omega

theorem lowByte_joinHalf (lo hi : Byte) : lowByte (joinHalf lo hi) = lo := by
  apply BitVec.eq_of_toNat_eq
  rw [lowByte_toNat, joinHalf_toNat]
  have := lo.isLt
  omega

theorem highByte_joinHalf (lo hi : Byte) : highByte (joinHalf lo hi) = hi := by
  apply BitVec.eq_of_toNat_eq
  rw [highByte_toNat, joinHalf_toNat]
  have := lo.isLt
  omega

end Sys2Proof
end

