-- ==== Sys2Proof/Laws/Memory.lean ====
section
/-!
SUPPORT. The framebuffer's laws: a write keeps the canonical form and the address bound, a read after it gives the byte written,
and every other address reads as before.
-/

namespace Sys2Proof.Machine

theorem Memory.mem_cons {a : Nat} {v : Byte} {m : Memory} {c : Host.Cell} (h : c ∈ Memory.cons a v m) :
    c = (a, v) ∨ c ∈ m := by
  unfold Memory.cons at h
  split at h
  · exact .inr h
  · simpa using h

theorem Memory.mem_write {m : Memory} {a : Nat} {v : Byte} {c : Host.Cell} (h : c ∈ Memory.write m a v) :
    c = (a, v) ∨ c ∈ m := by
  induction m with
  | nil => exact Memory.mem_cons h
  | cons kw m ih =>
    obtain ⟨k, w⟩ := kw
    simp only [Memory.write] at h
    split at h
    · exact Memory.mem_cons h
    · split at h
      · exact (Memory.mem_cons h).imp_right (List.mem_cons_of_mem _)
      · rcases List.mem_cons.1 h with h | h
        · exact .inr (h ▸ List.mem_cons_self)
        · exact (ih h).imp_right (List.mem_cons_of_mem _)

theorem Memory.wf_tail {c : Host.Cell} {m : Memory} (h : Memory.wf (c :: m)) : Memory.wf m :=
  ⟨(List.pairwise_cons.1 h.1).2, fun d hd => h.2 d (List.mem_cons_of_mem _ hd)⟩

theorem Memory.wf_cons {a : Nat} {v : Byte} {m : Memory} (h : Memory.wf m) (lt : ∀ c ∈ m, a < c.1) :
    Memory.wf (Memory.cons a v m) := by
  unfold Memory.cons
  split
  · exact h
  · rename_i hv
    exact ⟨List.pairwise_cons.2 ⟨lt, h.1⟩, fun c hc => by
      rcases List.mem_cons.1 hc with rfl | hc
      · exact hv
      · exact h.2 c hc⟩

/-- A write keeps the canonical form. -/
theorem Memory.write_wf {m : Memory} (h : Memory.wf m) (a : Nat) (v : Byte) : Memory.wf (Memory.write m a v) := by
  induction m with
  | nil => exact Memory.wf_cons h (by simp)
  | cons kw m ih =>
    obtain ⟨k, w⟩ := kw
    have hk := (List.pairwise_cons.1 h.1).1
    simp only [Memory.write]
    split
    · refine Memory.wf_cons h fun c hc => ?_
      rcases List.mem_cons.1 hc with rfl | hc
      · assumption
      · have := hk c hc
        omega
    · split
      · subst a
        exact Memory.wf_cons (Memory.wf_tail h) hk
      · refine ⟨List.pairwise_cons.2 ⟨fun c hc => ?_, (ih (Memory.wf_tail h)).1⟩, fun c hc => ?_⟩
        · rcases Memory.mem_write hc with rfl | hc
          · simp only
            omega
          · exact hk c hc
        · rcases List.mem_cons.1 hc with rfl | hc
          · exact h.2 _ List.mem_cons_self
          · exact (ih (Memory.wf_tail h)).2 c hc

/-- A write keeps a bound on the addresses. -/
theorem Memory.write_inside {m : Memory} {n a : Nat} (h : ∀ c ∈ m, c.1 < n) (ha : a < n) (v : Byte) :
    ∀ c ∈ Memory.write m a v, c.1 < n := by
  intro c hc
  rcases Memory.mem_write hc with rfl | hc
  · exact ha
  · exact h c hc

theorem Memory.read_of_below {m : Memory} {a : Nat} (h : ∀ c ∈ m, a < c.1) : Memory.read m a = Memory.unwritten := by
  induction m with
  | nil => rfl
  | cons kw m ih =>
    obtain ⟨k, w⟩ := kw
    have hk := h (k, w) List.mem_cons_self
    simp only at hk
    rw [Memory.read, if_neg (by omega)]
    exact ih fun c hc => h c (List.mem_cons_of_mem _ hc)

theorem Memory.read_cons {a b : Nat} {v : Byte} {m : Memory} (lt : ∀ c ∈ m, a < c.1) :
    Memory.read (Memory.cons a v m) b = if a = b then v else Memory.read m b := by
  unfold Memory.cons
  split
  · subst v
    split
    · subst b
      exact Memory.read_of_below lt
    · rfl
  · rfl

/-- Reading after a write: the byte written at its address, the byte that was there at every other. -/
theorem Memory.read_write {m : Memory} (h : Memory.wf m) (a b : Nat) (v : Byte) :
    Memory.read (Memory.write m a v) b = if a = b then v else Memory.read m b := by
  induction m with
  | nil => exact Memory.read_cons (by simp)
  | cons kw m ih =>
    obtain ⟨k, w⟩ := kw
    have hk := (List.pairwise_cons.1 h.1).1
    simp only [Memory.write]
    split
    · refine Memory.read_cons fun c hc => ?_
      rcases List.mem_cons.1 hc with rfl | hc
      · assumption
      · have := hk c hc
        omega
    · split
      · subst a
        rw [Memory.read_cons hk]
        by_cases hb : k = b <;> simp [Memory.read, hb]
      · rw [Memory.read, ih (Memory.wf_tail h)]
        by_cases hb : k = b
        · subst b
          simp only [Memory.read, if_pos]
          rw [if_neg (by omega)]
        · simp [Memory.read, hb]

/-- Every memory operation keeps the canonical form: the host's write is the only one that changes the framebuffer. -/
theorem hostWriteFb_wf {s t : State} {a : Nat} {v : Byte} (h : Memory.wf s.fb) (e : hostWriteFb a v s = .next t) :
    Memory.wf t.fb := by
  unfold hostWriteFb at e
  split at e
  · cases e
    exact Memory.write_wf h a v
  · cases e

end Sys2Proof.Machine
end

