-- ==== Sys2Proof/Laws/State.lean ====
section
/-!
SUPPORT. What each shared update of the state does to each field: one lemma a field, true by unfolding the update once.
-/

namespace Sys2Proof.Machine

variable (s : State)

/-! ### `emit` -/

@[simp] theorem State.emit_cfg (e : Event) : (s.emit e).cfg = s.cfg := rfl
@[simp] theorem State.emit_macroState (e : Event) : (s.emit e).macroState = s.macroState := rfl
@[simp] theorem State.emit_a0 (e : Event) : (s.emit e).a0 = s.a0 := rfl
@[simp] theorem State.emit_a1 (e : Event) : (s.emit e).a1 = s.a1 := rfl
@[simp] theorem State.emit_a2 (e : Event) : (s.emit e).a2 = s.a2 := rfl
@[simp] theorem State.emit_a3 (e : Event) : (s.emit e).a3 = s.a3 := rfl
@[simp] theorem State.emit_op (e : Event) : (s.emit e).op = s.op := rfl
@[simp] theorem State.emit_seqPc (e : Event) : (s.emit e).seqPc = s.seqPc + 1 := rfl
@[simp] theorem State.emit_todo (e : Event) : (s.emit e).todo = s.todo := rfl
@[simp] theorem State.emit_row (e : Event) : (s.emit e).row = s.row := rfl
@[simp] theorem State.emit_col (e : Event) : (s.emit e).col = s.col := rfl
@[simp] theorem State.emit_polls (e : Event) : (s.emit e).polls = s.polls := rfl
@[simp] theorem State.emit_rst (e : Event) : (s.emit e).rst = e.rstAfter s.rst := rfl
@[simp] theorem State.emit_cs (e : Event) : (s.emit e).cs = e.csAfter s.cfg s.cs := rfl
@[simp] theorem State.emit_dc (e : Event) : (s.emit e).dc = e.dcAfter s.dc := rfl
@[simp] theorem State.emit_sck (e : Event) : (s.emit e).sck = e.sckAfter s.sck := rfl
@[simp] theorem State.emit_mosi (e : Event) : (s.emit e).mosi = e.mosiAfter s.mosi := rfl
@[simp] theorem State.emit_lastBusy (e : Event) : (s.emit e).lastBusy = e.lastBusyAfter s.lastBusy := rfl
@[simp] theorem State.emit_ready (e : Event) : (s.emit e).ready = s.ready := rfl
@[simp] theorem State.emit_result (e : Event) : (s.emit e).result = s.result := rfl
@[simp] theorem State.emit_eflags (e : Event) : (s.emit e).eflags = s.eflags := rfl
@[simp] theorem State.emit_fb (e : Event) : (s.emit e).fb = s.fb := rfl
@[simp] theorem State.emit_events (e : Event) : (s.emit e).events = e :: s.events := rfl
@[simp] theorem State.emit_raced (e : Event) : (s.emit e).raced = s.raced := rfl
@[simp] theorem State.emit_tainted (e : Event) : (s.emit e).tainted = s.tainted := rfl
@[simp] theorem State.emit_samples (e : Event) : (s.emit e).samples = s.samples := rfl
@[simp] theorem State.emit_port (e : Event) : (s.emit e).port = s.port := rfl
@[simp] theorem State.emit_moves (e : Event) : (s.emit e).moves = s.moves := rfl
@[simp] theorem State.emit_draws (e : Event) : (s.emit e).draws = s.draws := rfl

/-! ### `withTodo` -/

@[simp] theorem State.withTodo_cfg (ms : List Micro) : (s.withTodo ms).cfg = s.cfg := rfl
@[simp] theorem State.withTodo_macroState (ms : List Micro) : (s.withTodo ms).macroState = s.macroState := rfl
@[simp] theorem State.withTodo_a0 (ms : List Micro) : (s.withTodo ms).a0 = s.a0 := rfl
@[simp] theorem State.withTodo_a1 (ms : List Micro) : (s.withTodo ms).a1 = s.a1 := rfl
@[simp] theorem State.withTodo_a2 (ms : List Micro) : (s.withTodo ms).a2 = s.a2 := rfl
@[simp] theorem State.withTodo_a3 (ms : List Micro) : (s.withTodo ms).a3 = s.a3 := rfl
@[simp] theorem State.withTodo_op (ms : List Micro) : (s.withTodo ms).op = s.op := rfl
@[simp] theorem State.withTodo_seqPc (ms : List Micro) : (s.withTodo ms).seqPc = s.seqPc := rfl
@[simp] theorem State.withTodo_todo (ms : List Micro) : (s.withTodo ms).todo = ms := rfl
@[simp] theorem State.withTodo_row (ms : List Micro) : (s.withTodo ms).row = s.row := rfl
@[simp] theorem State.withTodo_col (ms : List Micro) : (s.withTodo ms).col = s.col := rfl
@[simp] theorem State.withTodo_polls (ms : List Micro) : (s.withTodo ms).polls = s.polls := rfl
@[simp] theorem State.withTodo_rst (ms : List Micro) : (s.withTodo ms).rst = s.rst := rfl
@[simp] theorem State.withTodo_cs (ms : List Micro) : (s.withTodo ms).cs = s.cs := rfl
@[simp] theorem State.withTodo_dc (ms : List Micro) : (s.withTodo ms).dc = s.dc := rfl
@[simp] theorem State.withTodo_sck (ms : List Micro) : (s.withTodo ms).sck = s.sck := rfl
@[simp] theorem State.withTodo_mosi (ms : List Micro) : (s.withTodo ms).mosi = s.mosi := rfl
@[simp] theorem State.withTodo_lastBusy (ms : List Micro) : (s.withTodo ms).lastBusy = s.lastBusy := rfl
@[simp] theorem State.withTodo_ready (ms : List Micro) : (s.withTodo ms).ready = s.ready := rfl
@[simp] theorem State.withTodo_result (ms : List Micro) : (s.withTodo ms).result = s.result := rfl
@[simp] theorem State.withTodo_eflags (ms : List Micro) : (s.withTodo ms).eflags = s.eflags := rfl
@[simp] theorem State.withTodo_fb (ms : List Micro) : (s.withTodo ms).fb = s.fb := rfl
@[simp] theorem State.withTodo_events (ms : List Micro) : (s.withTodo ms).events = s.events := rfl
@[simp] theorem State.withTodo_raced (ms : List Micro) : (s.withTodo ms).raced = s.raced := rfl
@[simp] theorem State.withTodo_tainted (ms : List Micro) : (s.withTodo ms).tainted = s.tainted := rfl
@[simp] theorem State.withTodo_samples (ms : List Micro) : (s.withTodo ms).samples = s.samples := rfl
@[simp] theorem State.withTodo_port (ms : List Micro) : (s.withTodo ms).port = s.port := rfl
@[simp] theorem State.withTodo_moves (ms : List Micro) : (s.withTodo ms).moves = s.moves := rfl
@[simp] theorem State.withTodo_draws (ms : List Micro) : (s.withTodo ms).draws = s.draws := rfl
@[simp] theorem State.withTodo_withTodo (ms ns : List Micro) : (s.withTodo ms).withTodo ns = s.withTodo ns := rfl
@[simp] theorem State.withTodo_todo_self : s.withTodo s.todo = s := rfl
@[simp] theorem State.emit_withTodo (e : Event) (ms : List Micro) : (s.withTodo ms).emit e = (s.emit e).withTodo ms := rfl
@[simp] theorem State.prepend_withTodo (ms ns : List Micro) : (s.withTodo ns).prepend ms = s.withTodo (ms ++ ns) := rfl

/-! ### `prepend` -/

@[simp] theorem State.prepend_cfg (ms : List Micro) : (s.prepend ms).cfg = s.cfg := rfl
@[simp] theorem State.prepend_macroState (ms : List Micro) : (s.prepend ms).macroState = s.macroState := rfl
@[simp] theorem State.prepend_a0 (ms : List Micro) : (s.prepend ms).a0 = s.a0 := rfl
@[simp] theorem State.prepend_a1 (ms : List Micro) : (s.prepend ms).a1 = s.a1 := rfl
@[simp] theorem State.prepend_a2 (ms : List Micro) : (s.prepend ms).a2 = s.a2 := rfl
@[simp] theorem State.prepend_a3 (ms : List Micro) : (s.prepend ms).a3 = s.a3 := rfl
@[simp] theorem State.prepend_op (ms : List Micro) : (s.prepend ms).op = s.op := rfl
@[simp] theorem State.prepend_seqPc (ms : List Micro) : (s.prepend ms).seqPc = s.seqPc := rfl
@[simp] theorem State.prepend_todo (ms : List Micro) : (s.prepend ms).todo = ms ++ s.todo := rfl
@[simp] theorem State.prepend_row (ms : List Micro) : (s.prepend ms).row = s.row := rfl
@[simp] theorem State.prepend_col (ms : List Micro) : (s.prepend ms).col = s.col := rfl
@[simp] theorem State.prepend_polls (ms : List Micro) : (s.prepend ms).polls = s.polls := rfl
@[simp] theorem State.prepend_rst (ms : List Micro) : (s.prepend ms).rst = s.rst := rfl
@[simp] theorem State.prepend_cs (ms : List Micro) : (s.prepend ms).cs = s.cs := rfl
@[simp] theorem State.prepend_dc (ms : List Micro) : (s.prepend ms).dc = s.dc := rfl
@[simp] theorem State.prepend_sck (ms : List Micro) : (s.prepend ms).sck = s.sck := rfl
@[simp] theorem State.prepend_mosi (ms : List Micro) : (s.prepend ms).mosi = s.mosi := rfl
@[simp] theorem State.prepend_lastBusy (ms : List Micro) : (s.prepend ms).lastBusy = s.lastBusy := rfl
@[simp] theorem State.prepend_ready (ms : List Micro) : (s.prepend ms).ready = s.ready := rfl
@[simp] theorem State.prepend_result (ms : List Micro) : (s.prepend ms).result = s.result := rfl
@[simp] theorem State.prepend_eflags (ms : List Micro) : (s.prepend ms).eflags = s.eflags := rfl
@[simp] theorem State.prepend_fb (ms : List Micro) : (s.prepend ms).fb = s.fb := rfl
@[simp] theorem State.prepend_events (ms : List Micro) : (s.prepend ms).events = s.events := rfl
@[simp] theorem State.prepend_raced (ms : List Micro) : (s.prepend ms).raced = s.raced := rfl
@[simp] theorem State.prepend_tainted (ms : List Micro) : (s.prepend ms).tainted = s.tainted := rfl
@[simp] theorem State.prepend_samples (ms : List Micro) : (s.prepend ms).samples = s.samples := rfl
@[simp] theorem State.prepend_port (ms : List Micro) : (s.prepend ms).port = s.port := rfl
@[simp] theorem State.prepend_moves (ms : List Micro) : (s.prepend ms).moves = s.moves := rfl
@[simp] theorem State.prepend_draws (ms : List Micro) : (s.prepend ms).draws = s.draws := rfl

/-! ### `accept` -/

@[simp] theorem State.accept_cfg (c : Byte) (o0 o1 o2 o3 : Option Half) : (s.accept c o0 o1 o2 o3).cfg = s.cfg := rfl
@[simp] theorem State.accept_macroState (c : Byte) (o0 o1 o2 o3 : Option Half) : (s.accept c o0 o1 o2 o3).macroState = s.macroState := rfl
@[simp] theorem State.accept_a0 (c : Byte) (o0 o1 o2 o3 : Option Half) : (s.accept c o0 o1 o2 o3).a0 = o0.getD s.a0 := rfl
@[simp] theorem State.accept_a1 (c : Byte) (o0 o1 o2 o3 : Option Half) : (s.accept c o0 o1 o2 o3).a1 = o1.getD s.a1 := rfl
@[simp] theorem State.accept_a2 (c : Byte) (o0 o1 o2 o3 : Option Half) : (s.accept c o0 o1 o2 o3).a2 = o2.getD s.a2 := rfl
@[simp] theorem State.accept_a3 (c : Byte) (o0 o1 o2 o3 : Option Half) : (s.accept c o0 o1 o2 o3).a3 = o3.getD s.a3 := rfl
@[simp] theorem State.accept_op (c : Byte) (o0 o1 o2 o3 : Option Half) : (s.accept c o0 o1 o2 o3).op = c := rfl
@[simp] theorem State.accept_seqPc (c : Byte) (o0 o1 o2 o3 : Option Half) : (s.accept c o0 o1 o2 o3).seqPc = 0 := rfl
@[simp] theorem State.accept_todo (c : Byte) (o0 o1 o2 o3 : Option Half) : (s.accept c o0 o1 o2 o3).todo = s.todo := rfl
@[simp] theorem State.accept_row (c : Byte) (o0 o1 o2 o3 : Option Half) : (s.accept c o0 o1 o2 o3).row = s.row := rfl
@[simp] theorem State.accept_col (c : Byte) (o0 o1 o2 o3 : Option Half) : (s.accept c o0 o1 o2 o3).col = s.col := rfl
@[simp] theorem State.accept_polls (c : Byte) (o0 o1 o2 o3 : Option Half) : (s.accept c o0 o1 o2 o3).polls = s.polls := rfl
@[simp] theorem State.accept_rst (c : Byte) (o0 o1 o2 o3 : Option Half) : (s.accept c o0 o1 o2 o3).rst = s.rst := rfl
@[simp] theorem State.accept_cs (c : Byte) (o0 o1 o2 o3 : Option Half) : (s.accept c o0 o1 o2 o3).cs = s.cs := rfl
@[simp] theorem State.accept_dc (c : Byte) (o0 o1 o2 o3 : Option Half) : (s.accept c o0 o1 o2 o3).dc = s.dc := rfl
@[simp] theorem State.accept_sck (c : Byte) (o0 o1 o2 o3 : Option Half) : (s.accept c o0 o1 o2 o3).sck = s.sck := rfl
@[simp] theorem State.accept_mosi (c : Byte) (o0 o1 o2 o3 : Option Half) : (s.accept c o0 o1 o2 o3).mosi = s.mosi := rfl
@[simp] theorem State.accept_lastBusy (c : Byte) (o0 o1 o2 o3 : Option Half) : (s.accept c o0 o1 o2 o3).lastBusy = s.lastBusy := rfl
@[simp] theorem State.accept_ready (c : Byte) (o0 o1 o2 o3 : Option Half) : (s.accept c o0 o1 o2 o3).ready = false := rfl
@[simp] theorem State.accept_result (c : Byte) (o0 o1 o2 o3 : Option Half) : (s.accept c o0 o1 o2 o3).result = s.result := rfl
@[simp] theorem State.accept_eflags (c : Byte) (o0 o1 o2 o3 : Option Half) : (s.accept c o0 o1 o2 o3).eflags = s.eflags := rfl
@[simp] theorem State.accept_fb (c : Byte) (o0 o1 o2 o3 : Option Half) : (s.accept c o0 o1 o2 o3).fb = s.fb := rfl
@[simp] theorem State.accept_events (c : Byte) (o0 o1 o2 o3 : Option Half) : (s.accept c o0 o1 o2 o3).events = s.events := rfl
@[simp] theorem State.accept_raced (c : Byte) (o0 o1 o2 o3 : Option Half) : (s.accept c o0 o1 o2 o3).raced = s.raced := rfl
@[simp] theorem State.accept_tainted (c : Byte) (o0 o1 o2 o3 : Option Half) : (s.accept c o0 o1 o2 o3).tainted = s.tainted := rfl
@[simp] theorem State.accept_samples (c : Byte) (o0 o1 o2 o3 : Option Half) : (s.accept c o0 o1 o2 o3).samples = s.samples := rfl
@[simp] theorem State.accept_port (c : Byte) (o0 o1 o2 o3 : Option Half) : (s.accept c o0 o1 o2 o3).port = s.port := rfl
@[simp] theorem State.accept_moves (c : Byte) (o0 o1 o2 o3 : Option Half) : (s.accept c o0 o1 o2 o3).moves = s.moves := rfl
@[simp] theorem State.accept_draws (c : Byte) (o0 o1 o2 o3 : Option Half) : (s.accept c o0 o1 o2 o3).draws = s.draws := rfl

/-! ### `complete` -/

@[simp] theorem State.complete_cfg (k : Completion) : (s.complete k).cfg = s.cfg := rfl
@[simp] theorem State.complete_macroState (k : Completion) : (s.complete k).macroState = if k = .ok then nextMacroState s.op s.macroState else s.macroState := rfl
@[simp] theorem State.complete_a0 (k : Completion) : (s.complete k).a0 = s.a0 := rfl
@[simp] theorem State.complete_a1 (k : Completion) : (s.complete k).a1 = s.a1 := rfl
@[simp] theorem State.complete_a2 (k : Completion) : (s.complete k).a2 = s.a2 := rfl
@[simp] theorem State.complete_a3 (k : Completion) : (s.complete k).a3 = s.a3 := rfl
@[simp] theorem State.complete_op (k : Completion) : (s.complete k).op = s.op := rfl
@[simp] theorem State.complete_seqPc (k : Completion) : (s.complete k).seqPc = s.seqPc := rfl
@[simp] theorem State.complete_todo (k : Completion) : (s.complete k).todo = [] := rfl
@[simp] theorem State.complete_row (k : Completion) : (s.complete k).row = s.row := rfl
@[simp] theorem State.complete_col (k : Completion) : (s.complete k).col = s.col := rfl
@[simp] theorem State.complete_polls (k : Completion) : (s.complete k).polls = s.polls := rfl
@[simp] theorem State.complete_rst (k : Completion) : (s.complete k).rst = s.rst := rfl
@[simp] theorem State.complete_cs (k : Completion) : (s.complete k).cs = s.cs := rfl
@[simp] theorem State.complete_dc (k : Completion) : (s.complete k).dc = s.dc := rfl
@[simp] theorem State.complete_sck (k : Completion) : (s.complete k).sck = s.sck := rfl
@[simp] theorem State.complete_mosi (k : Completion) : (s.complete k).mosi = s.mosi := rfl
@[simp] theorem State.complete_lastBusy (k : Completion) : (s.complete k).lastBusy = s.lastBusy := rfl
@[simp] theorem State.complete_ready (k : Completion) : (s.complete k).ready = true := rfl
@[simp] theorem State.complete_result (k : Completion) : (s.complete k).result = k := rfl
@[simp] theorem State.complete_eflags (k : Completion) : (s.complete k).eflags = s.eflags ||| k.flag := rfl
@[simp] theorem State.complete_fb (k : Completion) : (s.complete k).fb = s.fb := rfl
@[simp] theorem State.complete_events (k : Completion) : (s.complete k).events = s.events := rfl
@[simp] theorem State.complete_raced (k : Completion) : (s.complete k).raced = [] := rfl
@[simp] theorem State.complete_tainted (k : Completion) : (s.complete k).tainted = (s.tainted && !(decide (k = .ok) && decide (s.op = 0x10))) := rfl
@[simp] theorem State.complete_samples (k : Completion) : (s.complete k).samples = s.samples := rfl
@[simp] theorem State.complete_port (k : Completion) : (s.complete k).port = s.port := rfl
@[simp] theorem State.complete_moves (k : Completion) : (s.complete k).moves = s.moves := rfl
@[simp] theorem State.complete_draws (k : Completion) : (s.complete k).draws = s.draws := rfl

/-! ### `takeLevel` -/

@[simp] theorem State.takeLevel_cfg : (s.takeLevel).cfg = s.cfg := by unfold State.takeLevel; split <;> rfl
@[simp] theorem State.takeLevel_macroState : (s.takeLevel).macroState = s.macroState := by unfold State.takeLevel; split <;> rfl
@[simp] theorem State.takeLevel_a0 : (s.takeLevel).a0 = s.a0 := by unfold State.takeLevel; split <;> rfl
@[simp] theorem State.takeLevel_a1 : (s.takeLevel).a1 = s.a1 := by unfold State.takeLevel; split <;> rfl
@[simp] theorem State.takeLevel_a2 : (s.takeLevel).a2 = s.a2 := by unfold State.takeLevel; split <;> rfl
@[simp] theorem State.takeLevel_a3 : (s.takeLevel).a3 = s.a3 := by unfold State.takeLevel; split <;> rfl
@[simp] theorem State.takeLevel_op : (s.takeLevel).op = s.op := by unfold State.takeLevel; split <;> rfl
@[simp] theorem State.takeLevel_seqPc : (s.takeLevel).seqPc = s.seqPc := by unfold State.takeLevel; split <;> rfl
@[simp] theorem State.takeLevel_todo : (s.takeLevel).todo = s.todo := by unfold State.takeLevel; split <;> rfl
@[simp] theorem State.takeLevel_row : (s.takeLevel).row = s.row := by unfold State.takeLevel; split <;> rfl
@[simp] theorem State.takeLevel_col : (s.takeLevel).col = s.col := by unfold State.takeLevel; split <;> rfl
@[simp] theorem State.takeLevel_polls : (s.takeLevel).polls = s.polls := by unfold State.takeLevel; split <;> rfl
@[simp] theorem State.takeLevel_rst : (s.takeLevel).rst = s.rst := by unfold State.takeLevel; split <;> rfl
@[simp] theorem State.takeLevel_cs : (s.takeLevel).cs = s.cs := by unfold State.takeLevel; split <;> rfl
@[simp] theorem State.takeLevel_dc : (s.takeLevel).dc = s.dc := by unfold State.takeLevel; split <;> rfl
@[simp] theorem State.takeLevel_sck : (s.takeLevel).sck = s.sck := by unfold State.takeLevel; split <;> rfl
@[simp] theorem State.takeLevel_mosi : (s.takeLevel).mosi = s.mosi := by unfold State.takeLevel; split <;> rfl
@[simp] theorem State.takeLevel_lastBusy : (s.takeLevel).lastBusy = s.lastBusy := by unfold State.takeLevel; split <;> rfl
@[simp] theorem State.takeLevel_ready : (s.takeLevel).ready = s.ready := by unfold State.takeLevel; split <;> rfl
@[simp] theorem State.takeLevel_result : (s.takeLevel).result = s.result := by unfold State.takeLevel; split <;> rfl
@[simp] theorem State.takeLevel_eflags : (s.takeLevel).eflags = s.eflags := by unfold State.takeLevel; split <;> rfl
@[simp] theorem State.takeLevel_fb : (s.takeLevel).fb = s.fb := by unfold State.takeLevel; split <;> rfl
@[simp] theorem State.takeLevel_events : (s.takeLevel).events = s.events := by unfold State.takeLevel; split <;> rfl
@[simp] theorem State.takeLevel_raced : (s.takeLevel).raced = s.raced := by unfold State.takeLevel; split <;> rfl
@[simp] theorem State.takeLevel_tainted : (s.takeLevel).tainted = s.tainted := by unfold State.takeLevel; split <;> rfl
@[simp] theorem State.takeLevel_port : (s.takeLevel).port = s.port := by unfold State.takeLevel; split <;> rfl
@[simp] theorem State.takeLevel_moves : (s.takeLevel).moves = s.moves := by unfold State.takeLevel; split <;> rfl

@[simp] theorem State.takeLevel_samples : (s.takeLevel).samples = s.samples.tail := by
  unfold State.takeLevel; split <;> simp_all

@[simp] theorem Event.rstAfter_rst (l : Level) (o : Option Level) : (Event.rst l).rstAfter o = some l := rfl
@[simp] theorem Event.rstAfter_dc (l : Level) (o : Option Level) : (Event.dc l).rstAfter o = o := rfl
@[simp] theorem Event.rstAfter_cs (b : Bool) (o : Option Level) : (Event.cs b).rstAfter o = o := rfl
@[simp] theorem Event.rstAfter_spi (b : Byte) (o : Option Level) : (Event.spi b).rstAfter o = o := rfl
@[simp] theorem Event.rstAfter_delay (n : Nat) (o : Option Level) : (Event.delay n).rstAfter o = o := rfl
@[simp] theorem Event.rstAfter_busy (l : Level) (o : Option Level) : (Event.busy l).rstAfter o = o := rfl
@[simp] theorem Event.rstAfter_fbRead (a : Nat) (v : Byte) (o : Option Level) : (Event.fbRead a v).rstAfter o = o := rfl
@[simp] theorem Event.dcAfter_rst (l : Level) (o : Option Level) : (Event.rst l).dcAfter o = o := rfl
@[simp] theorem Event.dcAfter_dc (l : Level) (o : Option Level) : (Event.dc l).dcAfter o = some l := rfl
@[simp] theorem Event.dcAfter_cs (b : Bool) (o : Option Level) : (Event.cs b).dcAfter o = o := rfl
@[simp] theorem Event.dcAfter_spi (b : Byte) (o : Option Level) : (Event.spi b).dcAfter o = o := rfl
@[simp] theorem Event.dcAfter_delay (n : Nat) (o : Option Level) : (Event.delay n).dcAfter o = o := rfl
@[simp] theorem Event.dcAfter_busy (l : Level) (o : Option Level) : (Event.busy l).dcAfter o = o := rfl
@[simp] theorem Event.dcAfter_fbRead (a : Nat) (v : Byte) (o : Option Level) : (Event.fbRead a v).dcAfter o = o := rfl
@[simp] theorem Event.csAfter_rst (c : Config) (l o : Level) : (Event.rst l).csAfter c o = o := rfl
@[simp] theorem Event.csAfter_dc (c : Config) (l o : Level) : (Event.dc l).csAfter c o = o := rfl
@[simp] theorem Event.csAfter_active (c : Config) (o : Level) : (Event.cs true).csAfter c o = c.csActive := rfl
@[simp] theorem Event.csAfter_inactive (c : Config) (o : Level) : (Event.cs false).csAfter c o = c.csInactive := rfl
@[simp] theorem Event.csAfter_spi (c : Config) (b : Byte) (o : Level) : (Event.spi b).csAfter c o = o := rfl
@[simp] theorem Event.csAfter_delay (c : Config) (n : Nat) (o : Level) : (Event.delay n).csAfter c o = o := rfl
@[simp] theorem Event.csAfter_busy (c : Config) (l o : Level) : (Event.busy l).csAfter c o = o := rfl
@[simp] theorem Event.csAfter_fbRead (c : Config) (a : Nat) (v : Byte) (o : Level) : (Event.fbRead a v).csAfter c o = o := rfl

/-- `SPI(b)` leaves `SCK` low (R27, R88). -/
@[simp] theorem Event.sckAfter_spi (b : Byte) (o : Level) : (Event.spi b).sckAfter o = false := rfl

/-- `SPI(b)` leaves `MOSI` at bit 0 of `b` (R88: the least significant bit is sent last). -/
@[simp] theorem Event.mosiAfter_spi (b : Byte) (o : Level) : (Event.spi b).mosiAfter o = b.getLsbD 0 := rfl

/-- Only `SPI(b)` touches `SCK`. -/
theorem Event.sckAfter_of_low (e : Event) : e.sckAfter false = false := by cases e <;> rfl

/-- The trace grows by the emitted event. -/
@[simp] theorem State.trace_emit (e : Event) : (s.emit e).trace = s.trace ++ [e] := by
  simp [State.trace]

@[simp] theorem State.trace_withTodo (ms : List Micro) : (s.withTodo ms).trace = s.trace := rfl
@[simp] theorem State.trace_prepend (ms : List Micro) : (s.prepend ms).trace = s.trace := rfl
@[simp] theorem State.trace_accept (c : Byte) (o0 o1 o2 o3 : Option Half) : (s.accept c o0 o1 o2 o3).trace = s.trace := rfl
@[simp] theorem State.trace_complete (k : Completion) : (s.complete k).trace = s.trace := rfl
@[simp] theorem State.trace_takeLevel : s.takeLevel.trace = s.trace := by unfold State.takeLevel; split <;> rfl

/-- A latch that holds a value is shown as it is (R31). -/
@[simp] theorem State.shownLevel_some (s : State) (k : Nat) (l : Level) : s.shownLevel k (some l) = l := rfl

end Sys2Proof.Machine
end

