-- ==== Sys2Proof/Laws/Requests.lean ====
section
/-!
SUPPORT. What the dispatch answers for a request: each of the fifteen is one `present`, whose two outcomes are said here once.
-/

namespace Sys2Proof.Machine

/-! ## Presenting (R38) -/

/-- At `READY = 1` a presented request is accepted, its micro-sequence behind the legality check. -/
theorem present_ready {s : State} (h : s.ready = true) (code : Byte) (o0 o1 o2 o3 : Option Half)
    (body : State → List Micro) :
    present code o0 o1 o2 o3 body s = .next ((s.accept code o0 o1 o2 o3).withTodo
      (.legality :: body (s.accept code o0 o1 o2 o3))) := by
  unfold present
  rw [if_pos h]

/-- At `READY = 0` it has no effect. -/
theorem present_busy {s : State} (h : s.ready = false) (code : Byte) (o0 o1 o2 o3 : Option Half)
    (body : State → List Micro) : present code o0 o1 o2 o3 body s = .next s := by
  unfold present
  rw [h]
  rfl

/-! ## The fifteen requests -/

theorem exec_sendCommand (b : Byte) (s : State) :
    exec (.sendCommand b) s =
      present 0x01 (some (zext16 b)) none none none (fun t => [command (lowByte t.a0)]) s := rfl

theorem exec_sendData (b : Byte) (s : State) :
    exec (.sendData b) s = present 0x02 (some (zext16 b)) none none none (fun t => [data (lowByte t.a0)]) s := rfl

theorem exec_reset (s : State) : exec .reset s = present 0x03 none none none none (fun _ => resetPulse) s := rfl

theorem exec_waitFree (s : State) : exec .waitFree s = present 0x04 none none none none (fun _ => [.waitFree]) s := rfl

theorem exec_setWindow (xs ys xe ye : Half) (s : State) :
    exec (.setWindow xs ys xe ye) s =
      present 0x05 (some xs) (some ys) (some xe) (some ye) (fun t => windowSequence t.a0 t.a1 t.a2 t.a3) s := rfl

theorem exec_setCursor (x y : Half) (s : State) :
    exec (.setCursor x y) s = present 0x06 (some x) (some y) none none (fun t => cursorSequence t.a0 t.a1) s := rfl

theorem exec_sendLut (s : State) : exec .sendLut s = present 0x07 none none none none (fun t => lutSequence t.cfg) s := rfl

theorem exec_on (p : Byte) (s : State) :
    exec (.on p) s = present 0x08 (some (zext16 p)) none none none (fun t => onSequence (bitOperand t.a0)) s := rfl

theorem exec_prepareDisplay (s : State) :
    exec .prepareDisplay s = present 0x10 none none none none (fun t => prepareSequence t.cfg) s := rfl

theorem exec_displayImage (f : Byte) (s : State) :
    exec (.displayImage f) s = present 0x11 (some (zext16 f)) none none none (fun _ => imageSequence) s := rfl

theorem exec_displayBase (f : Byte) (s : State) :
    exec (.displayBase f) s = present 0x12 (some (zext16 f)) none none none (fun _ => baseSequence) s := rfl

theorem exec_displayPartial (f : Byte) (s : State) :
    exec (.displayPartial f) s = present 0x13 (some (zext16 f)) none none none (fun t => partialSequence t.cfg) s := rfl

theorem exec_clear (color : Byte) (s : State) :
    exec (.clear color) s = present 0x14 (some (zext16 color)) none none none (fun t => clearSequence (lowByte t.a0)) s := rfl

theorem exec_powerDown (s : State) :
    exec .powerDown s = present 0x15 none none none none (fun _ => powerDownSequence) s := rfl

theorem exec_reservedRequest (code : Byte) (s : State) :
    exec (.reservedRequest code) s = present code none none none none (fun _ => []) s := rfl

/-- Every request is one `present`, with operands and a micro-sequence that do not depend on the state. -/
theorem exec_isRequest {i : Instr} (h : i.isRequest = true) :
    ∃ code o0 o1 o2 o3 body, ∀ s, exec i s = present code o0 o1 o2 o3 body s := by
  cases i
  case sendCommand b => exact ⟨_, _, _, _, _, _, exec_sendCommand b⟩
  case sendData b => exact ⟨_, _, _, _, _, _, exec_sendData b⟩
  case reset => exact ⟨_, _, _, _, _, _, exec_reset⟩
  case waitFree => exact ⟨_, _, _, _, _, _, exec_waitFree⟩
  case setWindow xs ys xe ye => exact ⟨_, _, _, _, _, _, exec_setWindow xs ys xe ye⟩
  case setCursor x y => exact ⟨_, _, _, _, _, _, exec_setCursor x y⟩
  case sendLut => exact ⟨_, _, _, _, _, _, exec_sendLut⟩
  case on p => exact ⟨_, _, _, _, _, _, exec_on p⟩
  case prepareDisplay => exact ⟨_, _, _, _, _, _, exec_prepareDisplay⟩
  case displayImage f => exact ⟨_, _, _, _, _, _, exec_displayImage f⟩
  case displayBase f => exact ⟨_, _, _, _, _, _, exec_displayBase f⟩
  case displayPartial f => exact ⟨_, _, _, _, _, _, exec_displayPartial f⟩
  case clear color => exact ⟨_, _, _, _, _, _, exec_clear color⟩
  case powerDown => exact ⟨_, _, _, _, _, _, exec_powerDown⟩
  case reservedRequest code => exact ⟨_, _, _, _, _, _, exec_reservedRequest code⟩
  all_goals exact absurd h Bool.false_ne_true

/-- Every wire symbol starts one frame, the same in every state (R80). -/
theorem exec_wireSymbol {i : Instr} (h : i.isRequest = false) : ∃ level b, ∀ s, exec i s = .next (s.startFrame level b) := by
  cases i
  case dataFrame b => exact ⟨true, b, fun _ => rfl⟩
  case commandFrameRaw b => exact ⟨false, b, fun _ => rfl⟩
  all_goals first
    | exact ⟨false, _, fun _ => rfl⟩
    | exact absurd h.symm Bool.false_ne_true

end Sys2Proof.Machine
end

