-- ==== Sys2Proof/Laws/Run.lean ====
section
/-!
SUPPORT. How micro-sequences run: one lemma for each kind of element, and their composition. A claim about a whole operation is
put together from these without unfolding `step` again.
-/

namespace Sys2Proof.Machine

/-! ## Reaching -/

theorem coreRun_succ (M : Host.Core) (n : Nat) {s t : M.State} (h : M.step s = .next t) : M.run (n + 1) s = M.run n t := by
  simp [Host.Core.run, h]

theorem coreRun_succ_next (M : Host.Core) {n : Nat} {s u : M.State} (h : M.run (n + 1) s = .next u) :
    ∃ t, M.step s = .next t ∧ M.run n t = .next u := by
  simp only [Host.Core.run] at h
  split at h
  · exact ⟨_, ‹_›, h⟩
  · cases h
  · cases h

theorem run_succ (n : Nat) {s t : State} (h : step s = .next t) :
    Host.Core.run Sys2Proof.core (n + 1) s = Host.Core.run Sys2Proof.core n t :=
  coreRun_succ Sys2Proof.core n h

theorem run_succ_next {n : Nat} {s u : State} (h : Host.Core.run Sys2Proof.core (n + 1) s = .next u) :
    ∃ t, step s = .next t ∧ Host.Core.run Sys2Proof.core n t = .next u :=
  coreRun_succ_next Sys2Proof.core h

theorem run_add (m n : Nat) {s t : State} (h : Host.Core.run Sys2Proof.core m s = .next t) :
    Host.Core.run Sys2Proof.core (m + n) s = Host.Core.run Sys2Proof.core n t := by
  induction m generalizing s with
  | zero =>
    cases h
    rw [Nat.zero_add]
  | succ m ih =>
    obtain ⟨r, hr, hm⟩ := run_succ_next h
    rw [Nat.succ_add, run_succ _ hr, ih hm]

theorem Reaches.refl (s : State) : Reaches s s := ⟨0, rfl⟩

theorem Reaches.trans {s t u : State} (h : Reaches s t) (k : Reaches t u) : Reaches s u := by
  obtain ⟨m, hm⟩ := h
  obtain ⟨n, hn⟩ := k
  exact ⟨m + n, (run_add m n hm).trans hn⟩

theorem Reaches.step {s t u : State} (h : Machine.step s = .next t) (k : Reaches t u) : Reaches s u := by
  obtain ⟨n, hn⟩ := k
  exact ⟨n + 1, (run_succ n h).trans hn⟩

theorem Reaches.one {s t : State} (h : Machine.step s = .next t) : Reaches s t := .step h (.refl t)

/-! ## One step of an operation in progress -/

/-- An operation is in progress and the host makes no move. -/
structure Running (s : State) : Prop where
  legal : s.cfg.Legal
  busy : s.ready = false
  noMoves : s.moves = []

theorem Running.step {s : State} (h : Running s) : step s = advance s := by
  unfold Machine.step machineStep coreStep
  rw [if_pos h.legal, h.noMoves, h.busy]
  rfl

/-- Every row of the command opcodes starts the command frame of its opcode. -/
theorem exec_panelRows (s : State) : ∀ row ∈ panelRows, exec row.2 s = .next (s.startFrame false row.1) := by
  simp only [panelRows, List.forall_mem_cons]
  and_intros
  all_goals first
    | rfl
    | exact List.forall_mem_nil _

/-- Every wire symbol, whatever its row, starts the frame of its level and byte (R80). -/
theorem exec_decodeSymbol (w : BitVec 9) (s : State) :
    exec (decodeSymbol w) s = .next (s.startFrame (symbolLevel w) (symbolByte w)) := by
  rcases decodeSymbol_cases w with ⟨h, e⟩ | ⟨h, ⟨i, hi, e⟩ | ⟨-, e⟩⟩ <;> rw [e, h]
  · rfl
  · exact exec_panelRows s _ hi
  · rfl

/-- `s` and `t` agree on everything a micro-sequence does not change (its pins, counters, samples and trace apart). -/
structure Keeps (s t : State) : Prop where
  cfg : t.cfg = s.cfg
  macroState : t.macroState = s.macroState
  a0 : t.a0 = s.a0
  a1 : t.a1 = s.a1
  a2 : t.a2 = s.a2
  a3 : t.a3 = s.a3
  op : t.op = s.op
  ready : t.ready = s.ready
  result : t.result = s.result
  eflags : t.eflags = s.eflags
  fb : t.fb = s.fb
  raced : t.raced = s.raced
  tainted : t.tainted = s.tainted
  port : t.port = s.port
  moves : t.moves = s.moves

theorem Keeps.refl (s : State) : Keeps s s := by constructor <;> rfl

theorem Keeps.trans {s t u : State} (h : Keeps s t) (k : Keeps t u) : Keeps s u where
  cfg := k.cfg.trans h.cfg
  macroState := k.macroState.trans h.macroState
  a0 := k.a0.trans h.a0
  a1 := k.a1.trans h.a1
  a2 := k.a2.trans h.a2
  a3 := k.a3.trans h.a3
  op := k.op.trans h.op
  ready := k.ready.trans h.ready
  result := k.result.trans h.result
  eflags := k.eflags.trans h.eflags
  fb := k.fb.trans h.fb
  raced := k.raced.trans h.raced
  tainted := k.tainted.trans h.tainted
  port := k.port.trans h.port
  moves := k.moves.trans h.moves

theorem Running.keeps {s t : State} (h : Running s) (k : Keeps s t) : Running t :=
  ⟨k.cfg ▸ h.legal, k.ready.trans h.busy, k.moves.trans h.noMoves⟩

/-- From `s` with `ms` in front of its micro-sequence the machine reaches `t` with `ms` done, having emitted `es`. -/
structure Plays (ms : List Micro) (s : State) (es : List Event) (t : State) : Prop where
  keeps : Keeps s t
  events : t.events = es.reverse ++ s.events
  reaches : ∀ rest, Reaches (s.withTodo (ms ++ rest)) (t.withTodo rest)

theorem Plays.nil (s : State) : Plays [] s [] s :=
  ⟨.refl s, by simp, fun rest => by simpa using Reaches.refl _⟩

theorem Plays.append {ms ns : List Micro} {s t u : State} {es fs : List Event} (h : Plays ms s es t)
    (k : Plays ns t fs u) : Plays (ms ++ ns) s (es ++ fs) u where
  keeps := h.keeps.trans k.keeps
  events := by rw [k.events, h.events]; simp
  reaches rest := by
    rw [List.append_assoc]
    exact (h.reaches (ns ++ rest)).trans (k.reaches rest)

theorem Plays.cons {m : Micro} {ns : List Micro} {s t u : State} {es fs : List Event} (h : Plays [m] s es t)
    (k : Plays ns t fs u) : Plays (m :: ns) s (es ++ fs) u :=
  h.append k

/-- An element that answers with `ms` in front of the rest: it plays if `ms` plays from there. -/
theorem Plays.unfold {m : Micro} {ms : List Micro} {s t u : State} {e es : List Event} (run : Running s)
    (h : ∀ rest, runMicro m (s.withTodo rest) = .next (t.withTodo (ms ++ rest))) (k : Keeps s t)
    (he : t.events = e.reverse ++ s.events) (p : Plays ms t es u) : Plays [m] s (e ++ es) u where
  keeps := k.trans p.keeps
  events := by rw [p.events, he]; simp
  reaches rest := by
    refine .step (t := t.withTodo (ms ++ rest)) ?_ (p.reaches rest)
    have r : Running (s.withTodo ([m] ++ rest)) := ⟨run.legal, run.busy, run.noMoves⟩
    rw [r.step]
    exact h rest

theorem Plays.micro {m : Micro} {s t : State} {e : List Event} (run : Running s)
    (h : ∀ rest, runMicro m (s.withTodo rest) = .next (t.withTodo rest)) (k : Keeps s t)
    (he : t.events = e.reverse ++ s.events) : Plays [m] s e t := by
  simpa using Plays.unfold (ms := []) run h k he (.nil t)

theorem Keeps.emit (e : Event) (s : State) : Keeps s (s.emit e) := by constructor <;> rfl

/-! ## Pin writes, delays, frames -/

theorem plays_rst {s : State} (run : Running s) (l : Level) : Plays [.rst l] s [.rst l] (s.emit (.rst l)) :=
  .micro run (fun _ => rfl) (.emit _ s) rfl

theorem plays_delay {s : State} (run : Running s) (n : Nat) : Plays [.delay n] s [.delay n] (s.emit (.delay n)) :=
  .micro run (fun _ => rfl) (.emit _ s) rfl

theorem plays_cs {s : State} (run : Running s) (b : Bool) : Plays [.cs b] s [.cs b] (s.emit (.cs b)) :=
  .micro run (fun _ => rfl) (.emit _ s) rfl

theorem plays_spi {s : State} (run : Running s) (b : Byte) : Plays [.spi b] s [.spi b] (s.emit (.spi b)) :=
  .micro run (fun _ => rfl) (.emit _ s) rfl

/-- The frame of a symbol, as events. -/
def frame (w : BitVec 9) : List Event := [.dc (symbolLevel w), .cs true, .spi (symbolByte w), .cs false]

/-- The state after the frame of a symbol. -/
def State.frameSent (w : BitVec 9) (s : State) : State :=
  (((s.emit (.dc (symbolLevel w))).emit (.cs true)).emit (.spi (symbolByte w))).emit (.cs false)

theorem frame_command (b : Byte) : frame (commandSymbol b) = Trace.command b := by
  simp [frame, Trace.command, (symbol_command b).1, (symbol_command b).2]

theorem frame_data (b : Byte) : frame (dataSymbol b) = Trace.data b := by
  simp [frame, Trace.data, (symbol_data b).1, (symbol_data b).2]

theorem plays_symbol {s : State} (run : Running s) (w : BitVec 9) :
    Plays [.symbol w] s (frame w) (s.frameSent w) := by
  have r1 := run.keeps (.emit (.dc (symbolLevel w)) s)
  have r2 := r1.keeps (.emit (.cs true) _)
  have r3 := r2.keeps (.emit (.spi (symbolByte w)) _)
  exact .unfold (t := s.emit (.dc (symbolLevel w))) (e := [.dc (symbolLevel w)])
    (ms := [.cs true, .spi (symbolByte w), .cs false]) run (fun rest => exec_decodeSymbol w _) (.emit _ s) rfl
    (.cons (plays_cs r1 true) (.cons (plays_spi r2 _) (plays_cs r3 false)))

/-- What a list of frames leaves on the pins. -/
structure FramePins (ws : List (BitVec 9)) (s t : State) : Prop where
  rst : t.rst = s.rst
  samples : t.samples = s.samples
  cs : t.cs = if ws = [] then s.cs else s.cfg.csInactive
  dc : t.dc = (ws.getLast?.map symbolLevel).or s.dc
  row : t.row = s.row
  col : t.col = s.col
  draws : t.draws = s.draws

theorem plays_symbols (ws : List (BitVec 9)) {s : State} (run : Running s) :
    ∃ t, Plays (ws.map .symbol) s (ws.flatMap frame) t ∧ FramePins ws s t := by
  induction ws generalizing s with
  | nil => exact ⟨s, .nil s, by constructor <;> simp⟩
  | cons w ws ih =>
    have p := plays_symbol run w
    obtain ⟨t, q, k⟩ := ih (run.keeps p.keeps)
    refine ⟨t, p.cons q, ⟨k.rst, k.samples, ?_, ?_, k.row, k.col, k.draws⟩⟩
    · rw [k.cs]
      by_cases h : ws = [] <;> simp [h, State.frameSent]
    · rw [k.dc]
      cases ws with
      | nil => simp [State.frameSent]
      | cons v vs =>
        rw [List.getLast?_cons_cons, List.getLast?_eq_some_getLast (List.cons_ne_nil v vs)]
        rfl

/-- What frames send is the concatenation of what each of them sends. -/
theorem flatMap_frame_data (bs : List Byte) : (bs.map dataSymbol).flatMap frame = Trace.dataBytes bs := by
  rw [List.flatMap_map, Trace.dataBytes]
  exact congrArg (fun f => bs.flatMap f) (funext frame_data)

theorem map_data (bs : List Byte) : bs.map data = (bs.map dataSymbol).map Micro.symbol := by
  simp [data, Function.comp_def]

/-! ## The poll loop -/

/-- The state once `k` busy samples and an idle one have ended a wait. -/
def State.waited (k : Nat) (rest : List Level) (s : State) : State :=
  { s with
    polls := s.polls + k
    samples := rest
    events := (Trace.wait k).reverse ++ s.events
    seqPc := s.seqPc + 1
    lastBusy := false }

/-- A sample that reads 0 ends the wait (R121). -/
theorem pollOnce_idle {s : State} {ls : List Level} (h : s.samples = false :: ls) :
    pollOnce s = ({ s with samples := ls } : State).emit (.busy false) := by
  simp only [pollOnce, State.nextLevel, State.sample, State.takeLevel, h]
  rfl

/-- A sample that reads 1 below the limit leaves the delay to come (R121). -/
theorem pollOnce_busy {s : State} {ls : List Level} (h : s.samples = true :: ls)
    (hk : s.cfg.pollLimit ≠ some (s.polls + 1)) :
    pollOnce s = (({ s with samples := ls, polls := s.polls + 1 } : State).emit (.busy true)).prepend [.pollDelay] := by
  simp only [pollOnce, State.nextLevel, State.sample, State.takeLevel, h, if_true, afterBusySample, State.emit]
  rw [if_neg hk]

/-- A sample that reads 1 at the limit raises `SyncTimeout` (R124). -/
theorem pollOnce_limit {s : State} {ls : List Level} (h : s.samples = true :: ls)
    (hk : s.cfg.pollLimit = some (s.polls + 1)) :
    pollOnce s = (({ s with samples := ls, polls := s.polls + 1 } : State).emit (.busy true)).complete .syncTimeout := by
  simp only [pollOnce, State.nextLevel, State.sample, State.takeLevel, h, if_true, afterBusySample, State.emit]
  rw [if_pos hk]

/-- The state after one busy sample and its delay: back at the sample (R23, R121). -/
def State.polledBusy (ls : List Level) (s : State) : State :=
  { s with
    polls := s.polls + 1
    samples := ls
    events := Event.delay 10 :: Event.busy true :: s.events
    lastBusy := true }

theorem plays_busyPoll {s t : State} {ls : List Level} {es : List Event} (run : Running s) (hs : s.samples = true :: ls)
    (hk : s.cfg.pollLimit ≠ some (s.polls + 1)) (p : Plays [.poll] (s.polledBusy ls) es t) :
    Plays [.poll] s ([.busy true] ++ ([.delay 10] ++ es)) t := by
  let m : State := ({ s with samples := ls, polls := s.polls + 1 } : State).emit (.busy true)
  have km : Keeps s m := by constructor <;> rfl
  refine .unfold (t := m) (ms := [.pollDelay]) run (fun r => ?_) km rfl
    (.unfold (t := s.polledBusy ls) (ms := [.poll]) (run.keeps km) (fun r => rfl) (by constructor <;> rfl) rfl p)
  show Host.Outcome.next (pollOnce _) = _
  rw [pollOnce_busy (s := s.withTodo r) hs hk]
  rfl

theorem plays_poll (k : Nat) {s : State} {rest : List Level} (run : Running s)
    (hs : s.samples = List.replicate k true ++ false :: rest) (hk : s.admits (s.polls + k)) :
    Plays [.poll] s (Trace.wait k) (s.waited k rest) := by
  induction k generalizing s with
  | zero =>
    refine .micro run (fun r => ?_) (by constructor <;> rfl) rfl
    show Host.Outcome.next (pollOnce _) = _
    rw [pollOnce_idle (s := s.withTodo r) hs]
    rfl
  | succ k ih =>
    have q : Plays [.poll] (s.polledBusy _) (Trace.wait k) ((s.polledBusy _).waited k rest) :=
      ih (run.keeps (by constructor <;> rfl)) rfl (by
        intro n hn
        have := hk n hn
        show s.polls + 1 + k < n
        omega)
    have e : (s.polledBusy (List.replicate k true ++ false :: rest)).waited k rest = s.waited (k + 1) rest := by
      simp [State.waited, State.polledBusy, Trace.wait, Trace.busyPolls, List.replicate_succ]
      omega
    have e2 : Trace.wait (k + 1) = [Event.busy true] ++ ([Event.delay 10] ++ Trace.wait k) := by
      simp [Trace.wait, Trace.busyPolls, List.replicate_succ]
    rw [← e, e2]
    refine plays_busyPoll run (by rw [hs, List.replicate_succ]; rfl) (fun h => ?_) q
    have := hk _ h
    omega

/-- What a wait leaves. -/
structure WaitPins (rest : List Level) (s t : State) : Prop where
  rst : t.rst = s.rst
  cs : t.cs = s.cs
  dc : t.dc = s.dc
  samples : t.samples = rest
  lastBusy : t.lastBusy = false

/-- `WAIT_FREE` with `k` busy samples before an idle one (R121). -/
theorem plays_wait (k : Nat) {s : State} {rest : List Level} (run : Running s)
    (hs : s.samples = List.replicate k true ++ false :: rest) (hk : s.admits k) :
    ∃ t, Plays [.waitFree] s (Trace.wait k) t ∧ WaitPins rest s t := by
  have kt : Keeps s { s with polls := 0 } := by constructor <;> rfl
  have q := plays_poll k (s := { s with polls := 0 }) (rest := rest) (run.keeps kt) hs
    (by simpa [State.admits] using hk)
  refine ⟨_, .unfold (e := []) (ms := [.poll]) run (fun _ => rfl) kt rfl q, ?_⟩
  constructor <;> rfl

/-! ## Bursts -/

/-- What a burst leaves. -/
structure BurstPins (s t : State) : Prop where
  rst : t.rst = s.rst
  cs : t.cs = s.cfg.csInactive
  dc : t.dc = some true
  samples : t.samples = s.samples

theorem bufLen_eq {c : Config} (h : c.Legal) : c.bufLen = c.height * c.rowBytes := by
  obtain ⟨h8, -⟩ := h
  obtain ⟨k, hk⟩ := Nat.dvd_of_mod_eq_zero h8
  unfold Config.bufLen Config.rowBytes
  rw [hk, Nat.mul_assoc, Nat.mul_div_cancel_left _ (by norm_num), Nat.mul_div_cancel_left _ (by norm_num), Nat.mul_comm]

theorem rowBytes_le {c : Config} (h : c.Legal) : 1 ≤ c.rowBytes ∧ c.rowBytes ≤ 256 := by
  obtain ⟨-, -, h3, h4, -⟩ := h
  unfold Config.rowBytes
  omega

/-- The byte a burst takes at an address, and the events of its turn. -/
def burstTurn (src : BurstSource) (fb : Memory) (a : Nat) : List Event :=
  match src with
  | .framebuffer => .fbRead a (Memory.read fb a) :: Trace.data (Memory.read fb a)
  | .constant c => Trace.data c

/-- One turn of a burst: the byte is read and sent, and the advance is what remains. -/
theorem plays_burstTurn {s : State} (src : BurstSource) (run : Running s) (hr : s.raced = [])
    (ha : fbAddress s.cfg s.row s.col < s.cfg.bufLen) :
    ∃ t, Keeps s t ∧ BurstPins s t ∧ t.row = s.row ∧ t.col = s.col ∧
      ∀ es u, Plays [.burstNext src] t es u →
        Plays [.burstByte src] s (burstTurn src s.fb (fbAddress s.cfg s.row s.col) ++ es) u := by
  cases src with
  | constant c =>
    obtain ⟨t, p, k⟩ := plays_symbols [dataSymbol c] run
    refine ⟨t, p.keeps, ⟨k.rst, by simpa using k.cs, by simpa [symbol_data] using k.dc, k.samples⟩, k.row, k.col,
      fun es u next => ?_⟩
    have q := p.append next
    simp only [List.map_cons, List.map_nil, List.flatMap_cons, List.flatMap_nil, List.append_nil, frame_data,
      List.singleton_append] at q
    exact .unfold (t := s) (e := []) run (fun _ => rfl) (.refl s) rfl q
  | framebuffer =>
    let a := fbAddress s.cfg s.row s.col
    let v := Memory.read s.fb a
    let s1 := s.emit (.fbRead a v)
    have k1 : Keeps s s1 := .emit _ s
    obtain ⟨t, p, k⟩ := plays_symbols [dataSymbol v] (run.keeps k1)
    refine ⟨t, k1.trans p.keeps, ⟨k.rst, ?_, ?_, k.samples⟩, k.row, k.col, fun es u next => ?_⟩
    · rw [k.cs]
      rfl
    · rw [k.dc]
      simp [symbol_data]
    have q := p.append next
    simp only [List.map_cons, List.map_nil, List.flatMap_cons, List.flatMap_nil, List.append_nil, frame_data,
      List.singleton_append] at q
    refine .unfold (t := s1) (e := [.fbRead a v]) run (fun rest => ?_) k1 rfl q
    have hraced : (s.withTodo rest).racedAt a = [] := by simp [State.racedAt, hr]
    have hv : (s.withTodo rest).fbValue a = v := by
      unfold State.fbValue
      rw [hraced]
      rfl
    have ha' : a < (s.withTodo rest).cfg.bufLen := ha
    have hd : (s.withTodo rest).fbDraws a = 0 := by
      unfold State.fbDraws
      rw [hraced]
    have e : (s.withTodo rest).readFb a = s1.withTodo rest := by
      rw [State.readFb, hv, hd]
      rfl
    show (if a < (s.withTodo rest).cfg.bufLen then
        Host.Outcome.next (((s.withTodo rest).readFb a).prepend [data ((s.withTodo rest).fbValue a), _]) else _) = _
    rw [if_pos ha', hv, e]
    rfl

/-- The loop of a burst from address `a`, with `n + 1` bytes to come. -/
theorem plays_burstLoop (n : Nat) {s : State} (src : BurstSource) (run : Running s) (hr : s.raced = [])
    (hrow : s.row.toNat < s.cfg.height) (hcol : s.col.toNat < s.cfg.rowBytes)
    (hn : fbAddress s.cfg s.row s.col + (n + 1) = s.cfg.bufLen) :
    ∃ t, Plays [.burstByte src] s
        ((List.range' (fbAddress s.cfg s.row s.col) (n + 1)).flatMap (burstTurn src s.fb)) t ∧ BurstPins s t := by
  induction n generalizing s with
  | zero =>
    obtain ⟨t, k, pins, er, ec, h⟩ := plays_burstTurn src run hr (by omega)
    refine ⟨t, ?_, pins⟩
    have stop : Plays [.burstNext src] t [] t := by
      refine .micro (run.keeps k) (fun rest => ?_) (.refl t) rfl
      have hbl := bufLen_eq run.legal
      unfold fbAddress at hn
      have hle : (s.row.toNat + 1) * s.cfg.rowBytes ≤ s.cfg.height * s.cfg.rowBytes :=
        Nat.mul_le_mul_right _ (by omega)
      rw [Nat.succ_mul] at hle
      have h1 : ¬ t.col.toNat + 1 < t.cfg.rowBytes := by
        rw [ec, k.cfg]
        omega
      have h2 : ¬ t.row.toNat + 1 < t.cfg.height := by
        rw [er, k.cfg]
        intro hlt
        have : (s.row.toNat + 1 + 1) * s.cfg.rowBytes ≤ s.cfg.height * s.cfg.rowBytes :=
          Nat.mul_le_mul_right _ (by omega)
        rw [Nat.succ_mul, Nat.succ_mul] at this
        omega
      have e1 : (t.withTodo rest).col = t.col := rfl
      have e2 : (t.withTodo rest).row = t.row := rfl
      have e3 : (t.withTodo rest).cfg = t.cfg := rfl
      simp only [runMicro, advanceBurst, e1, e2, e3, if_neg h1, if_neg h2]
    simpa [List.range'] using h [] t stop
  | succ n ih =>
    obtain ⟨t, k, pins, er, ec, h⟩ := plays_burstTurn src run hr (by omega)
    have hrb := rowBytes_le run.legal
    have hbl := bufLen_eq run.legal
    have hh : s.cfg.height ≤ 65536 := run.legal.2.2.2.2.2.1
    have fin : ∀ t' : State, Keeps t t' → t'.rst = t.rst → t'.cs = t.cs → t'.dc = t.dc → t'.samples = t.samples →
        t'.events = t.events →
        (∀ rest, runMicro (.burstNext src) (t.withTodo rest) = .next (t'.withTodo ([.burstByte src] ++ rest))) →
        t'.row.toNat < s.cfg.height → t'.col.toNat < s.cfg.rowBytes →
        fbAddress s.cfg t'.row t'.col = fbAddress s.cfg s.row s.col + 1 →
        ∃ u, Plays [.burstByte src] s
          ((List.range' (fbAddress s.cfg s.row s.col) (n + 1 + 1)).flatMap (burstTurn src s.fb)) u ∧ BurstPins s u := by
      intro t' kt' e1 e2 e3 e4 e5 hstep hr' hc' hadd
      have kst := k.trans kt'
      have ecfg : t'.cfg = s.cfg := kst.cfg
      obtain ⟨u, pu, pinsu⟩ := ih (s := t') (run.keeps kst) (kst.raced.trans hr) (by rw [ecfg]; exact hr')
        (by rw [ecfg]; exact hc') (by rw [ecfg, hadd]; omega)
      rw [ecfg, hadd, kst.fb] at pu
      have q : Plays [.burstNext src] t ([] ++ _) u :=
        .unfold (t := t') (e := []) (run.keeps k) hstep kt' (by simpa using e5) pu
      refine ⟨u, ?_, ⟨pinsu.rst.trans (e1.trans pins.rst), by rw [pinsu.cs, ecfg], pinsu.dc,
        pinsu.samples.trans (e4.trans pins.samples)⟩⟩
      have r := h _ u q
      rw [List.range'_succ, List.flatMap_cons]
      simpa using r
    have f1 : ∀ rest, (t.withTodo rest).col = t.col := fun _ => rfl
    have f2 : ∀ rest, (t.withTodo rest).row = t.row := fun _ => rfl
    have f3 : ∀ rest, (t.withTodo rest).cfg = t.cfg := fun _ => rfl
    have hc512 : s.col.toNat < 512 := s.col.isLt
    by_cases hcol' : s.col.toNat + 1 < s.cfg.rowBytes
    · have ht : t.col.toNat + 1 < t.cfg.rowBytes := by rw [ec, k.cfg]; exact hcol'
      have hc : (t.col + 1).toNat = s.col.toNat + 1 := by
        rw [BitVec.toNat_add, ec]
        exact Nat.mod_eq_of_lt (by simp; omega)
      refine fin { t with col := t.col + 1 } (by constructor <;> rfl) rfl rfl rfl rfl rfl (fun rest => ?_)
        (by simpa [er] using hrow) (by simp only [hc]; exact hcol') ?_
      · simp only [runMicro, advanceBurst, f1, f2, f3, if_pos ht]
        rfl
      · simp only [fbAddress, hc, er]
        omega
    · have hce : s.col.toNat + 1 = s.cfg.rowBytes := by omega
      have hrow' : s.row.toNat + 1 < s.cfg.height := by
        by_contra hne
        have hre : s.cfg.height = s.row.toNat + 1 := by omega
        unfold fbAddress at hn
        rw [hbl, hre, Nat.succ_mul] at hn
        omega
      have ht1 : ¬ t.col.toNat + 1 < t.cfg.rowBytes := by rw [ec, k.cfg]; exact hcol'
      have ht2 : t.row.toNat + 1 < t.cfg.height := by rw [er, k.cfg]; exact hrow'
      have hr1 : (t.row + 1).toNat = s.row.toNat + 1 := by
        rw [BitVec.toNat_add, er]
        exact Nat.mod_eq_of_lt (by simp; omega)
      refine fin { t with col := 0, row := t.row + 1 } (by constructor <;> rfl) rfl rfl rfl rfl rfl (fun rest => ?_)
        (by simp only [hr1]; exact hrow') (by simp; omega) ?_
      · simp only [runMicro, advanceBurst, f1, f2, f3, if_neg ht1, if_pos ht2]
        rfl
      · simp only [fbAddress, hr1, Nat.succ_mul]
        simp
        omega

/-- `BURST(cmd, src)` (R150). -/
theorem plays_burst {s : State} (cmd : Byte) (src : BurstSource) (run : Running s) (hr : s.raced = []) :
    ∃ t, Plays (burstSequence cmd src) s
        (Trace.command cmd ++ (List.range s.cfg.bufLen).flatMap (burstTurn src s.fb)) t ∧ BurstPins s t := by
  obtain ⟨t1, p1, k1⟩ := plays_symbols [commandSymbol cmd] run
  have r1 := run.keeps p1.keeps
  let t2 : State := { t1 with row := 0, col := 0 }
  have k2 : Keeps t1 t2 := by constructor <;> rfl
  have hrb := rowBytes_le r1.legal
  have hbl := bufLen_eq r1.legal
  have hh : 8 ≤ t1.cfg.height := r1.legal.2.2.2.2.1
  have hpos : 0 < t1.cfg.bufLen := by
    rw [hbl]
    exact Nat.mul_pos (by omega) (by omega)
  have ha : fbAddress t1.cfg 0 0 = 0 := by simp [fbAddress]
  obtain ⟨u, p, pins⟩ := plays_burstLoop (t1.cfg.bufLen - 1) (s := t2) src (r1.keeps k2)
    (k2.raced.trans (p1.keeps.raced.trans hr)) (by show 0 < t1.cfg.height; omega) (by show 0 < t1.cfg.rowBytes; omega)
    (by show fbAddress t1.cfg 0 0 + _ = t1.cfg.bufLen; rw [ha]; omega)
  have e : fbAddress t2.cfg t2.row t2.col = 0 := ha
  have q : Plays [.burst src] t1 ([] ++ _) u :=
    .unfold (t := t2) (e := []) (ms := [.burstByte src]) r1 (fun _ => rfl) k2 rfl p
  refine ⟨u, ?_, ⟨pins.rst.trans k1.rst, ?_, pins.dc, pins.samples.trans k1.samples⟩⟩
  · have r := p1.append q
    rw [e, Nat.sub_add_cancel hpos, ← List.range_eq_range', p1.keeps.cfg] at r
    have efb : t2.fb = s.fb := p1.keeps.fb
    rw [efb] at r
    simpa [frame_command, burstSequence, command] using r
  · rw [pins.cs]
    exact congrArg Config.csInactive p1.keeps.cfg

/-! ## From a request to its completion -/

/-- A request that passes the legality check and whose micro-sequence plays to its end completes with `OK` (R39, R40). -/
theorem runs_ok {i : Instr} {s a t : State} {ms : List Micro} {es : List Event} (calm : s.cfg.Legal) (hm : s.moves = [])
    (hx : exec i s = .next (a.withTodo (.legality :: ms))) (ha : a.ready = false) (hc : a.cfg = s.cfg)
    (hv : a.moves = s.moves) (hl : legalIn a.op a.macroState = true) (p : Plays ms a es t) :
    Runs i s ((t.withTodo []).complete .ok) := by
  have run : Running a := ⟨hc ▸ calm, ha, hv.trans hm⟩
  refine ⟨_, hx, ha, ?_⟩
  have p1 : Plays [.legality] a [] a := by
    refine .micro run (fun rest => ?_) (.refl a) rfl
    have : legalIn (a.withTodo rest).op (a.withTodo rest).macroState = true := hl
    simp only [runMicro, checkLegality, this, if_true]
  have q := (p1.append p).reaches []
  rw [List.append_nil] at q
  refine Reaches.trans q (.one ?_)
  have r : Running (t.withTodo []) :=
    ⟨(run.keeps p.keeps).legal, (run.keeps p.keeps).busy, (run.keeps p.keeps).noMoves⟩
  rw [r.step]
  rfl

/-- The same for a raise: a request whose micro-sequence plays up to an element that completes it. -/
theorem runs_raise {i : Instr} {s a t u : State} {ms rest : List Micro} {m : Micro} {es : List Event} (calm : s.cfg.Legal)
    (hm : s.moves = []) (hx : exec i s = .next (a.withTodo (ms ++ m :: rest))) (ha : a.ready = false)
    (hc : a.cfg = s.cfg) (hv : a.moves = s.moves) (p : Plays ms a es t)
    (he : runMicro m (t.withTodo rest) = .next u) : Runs i s u := by
  have run : Running a := ⟨hc ▸ calm, ha, hv.trans hm⟩
  refine ⟨_, hx, ha, Reaches.trans (p.reaches (m :: rest)) (.one ?_)⟩
  have rt := run.keeps p.keeps
  have r : Running (t.withTodo (m :: rest)) := ⟨rt.legal, rt.busy, rt.noMoves⟩
  rw [r.step]
  exact he

end Sys2Proof.Machine
end

