-- ==== Sys2Proof/Laws/Operations.lean ====
section
/-!
SUPPORT. From the playing of a micro-sequence to what the host sees of the request: the refusal, the success and the timeout of
any request, each once.
-/

namespace Sys2Proof.Machine

/-! ## Busy samples -/

/-- The poll loop over `k` busy samples that do not reach the limit: back at the sample, the polls on the trace (R121). -/
theorem polls_busy (k : Nat) {s : State} {ls : List Level} (run : Running s)
    (hs : s.samples = List.replicate k true ++ ls) (hk : s.admits (s.polls + k)) :
    ∃ t, Keeps s t ∧ t.events = (Trace.busyPolls k).reverse ++ s.events ∧ t.polls = s.polls + k ∧ t.samples = ls ∧
      t.rst = s.rst ∧ t.cs = s.cs ∧ t.dc = s.dc ∧
      ∀ rest, Reaches (s.withTodo (.poll :: rest)) (t.withTodo (.poll :: rest)) := by
  induction k generalizing s with
  | zero => exact ⟨s, .refl s, by simp [Trace.busyPolls], rfl, by simpa using hs, rfl, rfl, rfl, fun _ => .refl _⟩
  | succ k ih =>
    have kp : Keeps s (s.polledBusy (List.replicate k true ++ ls)) := by constructor <;> rfl
    obtain ⟨t, kt, he, hp, hl, h1, h2, h3, h⟩ := ih (run.keeps kp) rfl (by
      intro n hn
      have := hk n hn
      show s.polls + 1 + k < n
      omega)
    have hlim : s.cfg.pollLimit ≠ some (s.polls + 1) := by
      intro hn
      have := hk _ hn
      omega
    refine ⟨t, kp.trans kt, ?_, ?_, hl, h1, h2, h3, fun rest => ?_⟩
    · rw [he]
      simp [State.polledBusy, Trace.busyPolls, List.replicate_succ]
    · rw [hp]
      show s.polls + 1 + k = _
      omega
    · let m : State := ({ s with samples := List.replicate k true ++ ls, polls := s.polls + 1 } : State).emit (.busy true)
      have r1 : Running (s.withTodo (.poll :: rest)) := ⟨run.legal, run.busy, run.noMoves⟩
      have r2 : Running (m.withTodo (.pollDelay :: rest)) := ⟨run.legal, run.busy, run.noMoves⟩
      refine .step (t := m.withTodo (.pollDelay :: rest)) ?_ (.step (r2.step.trans rfl) (h rest))
      rw [r1.step]
      show Host.Outcome.next (pollOnce (s.withTodo rest)) = _
      rw [pollOnce_busy (s := s.withTodo rest) (ls := List.replicate k true ++ ls) hs hlim]
      rfl

/-- `WAIT_FREE` whose first `n` samples all read 1, with the limit `n`: the request ends with `SyncTimeout` (R124). -/
theorem wait_timeout {n : Nat} {s : State} {ls : List Level} (run : Running s) (hn : s.cfg.pollLimit = some n)
    (hs : s.samples = List.replicate n true ++ ls) :
    ∃ t, Keeps s t ∧ t.events = (Trace.timeout n).reverse ++ s.events ∧ t.samples = ls ∧
      t.rst = s.rst ∧ t.cs = s.cs ∧ t.dc = s.dc ∧
      ∀ rest, Reaches (s.withTodo (.waitFree :: rest)) (t.complete .syncTimeout) := by
  obtain ⟨m, rfl⟩ : ∃ m, n = m + 1 := by
    cases n with
    | zero => exact absurd hn run.legal.2.2.2.2.2.2
    | succ m => exact ⟨m, rfl⟩
  let s0 : State := { s with polls := 0 }
  have k0 : Keeps s s0 := by constructor <;> rfl
  obtain ⟨t, kt, he, hp, hl, h1, h2, h3, h⟩ := polls_busy m (s := s0) (ls := true :: ls) (run.keeps k0)
    (by show s.samples = _; rw [hs, List.replicate_succ']; simp)
    (by
      intro n' hn'
      rw [show s0.cfg.pollLimit = some (m + 1) from hn] at hn'
      cases hn'
      show 0 + m < m + 1
      omega)
  have ke := k0.trans kt
  let u : State := ({ t with samples := ls, polls := t.polls + 1 } : State).emit (.busy true)
  have ku : Keeps t u := by constructor <;> rfl
  refine ⟨u, ke.trans ku, ?_, rfl, h1, h2, h3, fun rest => ?_⟩
  · show Event.busy true :: t.events = _
    rw [he]
    simp [Trace.timeout, s0]
  · have r0 : Running (s.withTodo (.waitFree :: rest)) := ⟨run.legal, run.busy, run.noMoves⟩
    have rt := run.keeps ke
    have r1 : Running (t.withTodo (.poll :: rest)) := ⟨rt.legal, rt.busy, rt.noMoves⟩
    refine .step (t := s0.withTodo (.poll :: rest)) (r0.step.trans rfl) (Reaches.trans (h rest) (.one ?_))
    rw [r1.step]
    have hlim : (t.withTodo rest).cfg.pollLimit = some ((t.withTodo rest).polls + 1) := by
      show t.cfg.pollLimit = some (t.polls + 1)
      rw [ke.cfg, hn, hp]
      simp [s0]
    show Host.Outcome.next (pollOnce (t.withTodo rest)) = _
    rw [pollOnce_limit (s := t.withTodo rest) (ls := ls) hl hlim]
    rfl

/-! ## What the host sees -/

/-- The request `i` is the one of code `code`, with these operands and this micro-sequence. -/
def IsRequest (i : Instr) (code : Byte) (o0 o1 o2 o3 : Option Half) (body : State → List Micro) : Prop :=
  ∀ s, exec i s = present code o0 o1 o2 o3 body s

/-- An illegal request is refused (R195). -/
theorem refused_of_illegal {i : Instr} {code : Byte} {o0 o1 o2 o3 : Option Half} {body : State → List Micro} {s : State}
    (calm : Calm s) (hi : IsRequest i code o0 o1 o2 o3 body) (hl : legalIn code s.macroState = false) : Refused i s := by
  let a := s.accept code o0 o1 o2 o3
  have hx := (hi s).trans (present_ready calm.ready code o0 o1 o2 o3 body)
  refine ⟨(a.withTodo (body a)).complete .illegalRequest, ?_, ?_, ?_⟩
  · refine runs_raise (m := .legality) (rest := body a) (ms := []) calm.legal calm.noMoves hx rfl rfl rfl (.nil a) ?_
    have : legalIn (a.withTodo (body a)).op (a.withTodo (body a)).macroState = false := hl
    simp only [runMicro, checkLegality, this]
    rfl
  · constructor <;> simp [a, Completion.flag, State.trace]
  · constructor <;> rfl

/-- A legal request whose micro-sequence plays to its end succeeds (R39, R40). -/
theorem succeeds_of_plays {i : Instr} {code : Byte} {o0 o1 o2 o3 : Option Half} {body : State → List Micro} {s t : State}
    {es : List Event} (calm : Calm s) (hi : IsRequest i code o0 o1 o2 o3 body) (hl : legalIn code s.macroState = true)
    (p : Plays (body (s.accept code o0 o1 o2 o3)) (s.accept code o0 o1 o2 o3) es t) :
    ∃ u, Runs i s u ∧ Reports s u .ok (nextMacroState code s.macroState) 0b0000 es t.samples ∧
      Pins u t.rst t.cs t.dc ∧ u.lastBusy = t.lastBusy := by
  have hx := (hi s).trans (present_ready calm.ready code o0 o1 o2 o3 body)
  have k := p.keeps
  refine ⟨_, runs_ok calm.legal calm.noMoves hx rfl rfl rfl hl p, ?_, by constructor <;> rfl, rfl⟩
  constructor
  · rfl
  · rfl
  · show nextMacroState t.op t.macroState = _
    rw [k.op, k.macroState]
    rfl
  · show t.eflags ||| 0 = _
    rw [k.eflags]
    rfl
  · show t.events.reverse = _
    rw [p.events]
    simp [State.trace]
  · rfl
  · exact k.fb
  · exact k.cfg
  · exact k.port

/-- A legal request that plays up to a wait whose samples all read 1 up to the limit times out (R193). -/
theorem timesOut_of_plays {i : Instr} {code : Byte} {o0 o1 o2 o3 : Option Half} {body : State → List Micro} {s t : State}
    {ms rest : List Micro} {es : List Event} {n : Nat} {left : List Level} (calm : Calm s)
    (hi : IsRequest i code o0 o1 o2 o3 body) (hl : legalIn code s.macroState = true)
    (hb : body (s.accept code o0 o1 o2 o3) = ms ++ .waitFree :: rest)
    (p : Plays ms (s.accept code o0 o1 o2 o3) es t) (hn : s.cfg.pollLimit = some n)
    (hs : t.samples = List.replicate n true ++ left) : TimesOut i s (es ++ Trace.timeout n) left := by
  let a := s.accept code o0 o1 o2 o3
  have hx := (hi s).trans (present_ready calm.ready code o0 o1 o2 o3 body)
  rw [hb] at hx
  have run : Running a := ⟨calm.legal, rfl, calm.noMoves⟩
  have k := p.keeps
  obtain ⟨u, ku, he, hsl, -, -, -, h⟩ := wait_timeout (run.keeps k) (ls := left) (by rw [k.cfg]; exact hn) hs
  have kk := k.trans ku
  refine ⟨u.complete .syncTimeout, ⟨_, hx, rfl, ?_⟩, ?_⟩
  · have r0 : Running (a.withTodo (.legality :: (ms ++ .waitFree :: rest))) := ⟨run.legal, run.busy, run.noMoves⟩
    refine .step (t := a.withTodo (ms ++ .waitFree :: rest)) ?_ ((p.reaches _).trans (h rest))
    rw [r0.step]
    have : legalIn (a.withTodo (ms ++ .waitFree :: rest)).op (a.withTodo (ms ++ .waitFree :: rest)).macroState = true := hl
    show Host.Outcome.next (checkLegality _) = _
    simp only [checkLegality]
    exact congrArg _ (if_pos this)
  · constructor
    · rfl
    · rfl
    · exact kk.macroState
    · show u.eflags ||| 0b0010 = _
      rw [kk.eflags]
      rfl
    · show u.events.reverse = _
      rw [he, p.events]
      simp [State.trace]
    · exact hsl
    · exact kk.fb
    · exact kk.cfg
    · exact kk.port

/-! ## Parts of micro-sequences -/

/-- What the reset pulses leave: `RST` is 1, the rest of the pins as it was (R120, R122). -/
structure PulsePins (s t : State) : Prop where
  rst : t.rst = some true
  cs : t.cs = s.cs
  dc : t.dc = s.dc
  samples : t.samples = s.samples

/-- The pulse of `RESET` (R120). -/
theorem plays_resetPulse {s : State} (run : Running s) : ∃ t, Plays resetPulse s Trace.resetPulse t ∧ PulsePins s t := by
  have r1 := run.keeps (.emit (.rst true) s)
  have r2 := r1.keeps (.emit (.delay 50) _)
  have r3 := r2.keeps (.emit (.rst false) _)
  have r4 := r3.keeps (.emit (.delay 2) _)
  have r5 := r4.keeps (.emit (.rst true) _)
  refine ⟨_, (plays_rst run true).cons ((plays_delay r1 50).cons ((plays_rst r2 false).cons ((plays_delay r3 2).cons
    ((plays_rst r4 true).cons (plays_delay r5 50))))), ?_⟩
  constructor <;> simp

/-- `SOFT_PULSE` (R122). -/
theorem plays_softPulse {s : State} (run : Running s) : ∃ t, Plays softPulse s Trace.softPulse t ∧ PulsePins s t := by
  have r1 := run.keeps (.emit (.rst false) s)
  have r2 := r1.keeps (.emit (.delay 2) _)
  have r3 := r2.keeps (.emit (.rst true) _)
  refine ⟨_, (plays_rst run false).cons ((plays_delay r1 2).cons ((plays_rst r2 true).cons (plays_delay r3 2))), ?_⟩
  constructor <;> simp

theorem lowByte_zext16 (b : Byte) : lowByte (zext16 b) = b := by
  apply BitVec.eq_of_toNat_eq
  rw [lowByte_toNat, zext16, BitVec.toNat_setWidth]
  have := b.isLt
  omega

theorem bitOperand_zext16 (b : Byte) : bitOperand (zext16 b) = b.getLsbD 0 := by
  simp [bitOperand, zext16]

/-- The bytes of a coordinate by exact arithmetic (R83, R84, R85). -/
theorem windowX_eq (v : Half) : windowX v = BitVec.ofNat 8 (v.toNat / 8) := by
  apply BitVec.eq_of_toNat_eq
  rw [windowX, BitVec.toNat_setWidth, BitVec.toNat_ushiftRight, Nat.shiftRight_eq_div_pow, BitVec.toNat_ofNat]

theorem lowByte_eq (v : Half) : lowByte v = BitVec.ofNat 8 (v.toNat % 256) := by
  apply BitVec.eq_of_toNat_eq
  rw [lowByte_toNat, BitVec.toNat_ofNat]
  omega

theorem cursorX_eq (v : Half) : cursorX v = BitVec.ofNat 8 v.toNat := by
  apply BitVec.eq_of_toNat_eq
  rw [cursorX, lowByte_toNat, BitVec.toNat_ofNat]

theorem highByte_eq (v : Half) : highByte v = BitVec.ofNat 8 (v.toNat / 256) := by
  apply BitVec.eq_of_toNat_eq
  rw [highByte_toNat, BitVec.toNat_ofNat]
  have := v.isLt
  omega

/-- The framebuffer's burst as the events of `Trace.fbBurst` (R150). -/
theorem burst_framebuffer (cmd : Byte) (fb : Memory) (n : Nat) :
    Trace.command cmd ++ (List.range n).flatMap (burstTurn .framebuffer fb) = Trace.fbBurst cmd fb n := rfl

/-- The burst of a constant as the events of `Trace.constBurst` (R156). -/
theorem burst_constant (cmd : Byte) (fb : Memory) (c : Byte) (n : Nat) :
    Trace.command cmd ++ (List.range n).flatMap (burstTurn (.constant c) fb) = Trace.constBurst cmd c n := by
  unfold Trace.constBurst Trace.dataBytes
  congr 1
  induction n with
  | zero => rfl
  | succ n ih => rw [List.range_succ, List.flatMap_append, ih, List.replicate_succ', List.flatMap_append]; rfl

end Sys2Proof.Machine
end

