-- ==== Sys2Proof/Laws/PerInstr.lean ====
section
/-!
SUPPORT. One statement about the syntax of every instruction, with a lemma for each constructor.
-/

namespace Sys2Proof.Laws.EncodedShape

open Sys2Proof

/-- The shape of an instruction's encoding. A request row is a request: its bytes begin with its code, and they are as many as R94
takes from that code if the instruction is well formed. A row of wire symbols is one symbol, with bit 8 set for the data frame
alone (R80). -/
def Statement (i : Instr) : Prop :=
  match encode i with
  | .request bytes =>
    i.isRequest = true ∧ (i.wellFormed = true → ∃ code operands, bytes = code :: operands ∧ bytes.length = requestLength code)
  | .symbol w => i.isRequest = false ∧ (symbolLevel w = true ↔ ∃ b, i = .dataFrame b)

theorem sendCommand (b : Byte) : Statement (.sendCommand b) := ⟨rfl, fun _ => ⟨_, _, rfl, rfl⟩⟩

theorem sendData (b : Byte) : Statement (.sendData b) := ⟨rfl, fun _ => ⟨_, _, rfl, rfl⟩⟩

theorem reset : Statement .reset := ⟨rfl, fun _ => ⟨_, _, rfl, rfl⟩⟩

theorem waitFree : Statement .waitFree := ⟨rfl, fun _ => ⟨_, _, rfl, rfl⟩⟩

theorem setWindow (xs ys xe ye : Half) : Statement (.setWindow xs ys xe ye) := ⟨rfl, fun _ => ⟨_, _, rfl, rfl⟩⟩

theorem setCursor (x y : Half) : Statement (.setCursor x y) := ⟨rfl, fun _ => ⟨_, _, rfl, rfl⟩⟩

theorem sendLut : Statement .sendLut := ⟨rfl, fun _ => ⟨_, _, rfl, rfl⟩⟩

theorem on (p : Byte) : Statement (.on p) := ⟨rfl, fun _ => ⟨_, _, rfl, rfl⟩⟩

theorem prepareDisplay : Statement .prepareDisplay := ⟨rfl, fun _ => ⟨_, _, rfl, rfl⟩⟩

theorem displayImage (f : Byte) : Statement (.displayImage f) := ⟨rfl, fun _ => ⟨_, _, rfl, rfl⟩⟩

theorem displayBase (f : Byte) : Statement (.displayBase f) := ⟨rfl, fun _ => ⟨_, _, rfl, rfl⟩⟩

theorem displayPartial (f : Byte) : Statement (.displayPartial f) := ⟨rfl, fun _ => ⟨_, _, rfl, rfl⟩⟩

theorem clear (color : Byte) : Statement (.clear color) := ⟨rfl, fun _ => ⟨_, _, rfl, rfl⟩⟩

theorem powerDown : Statement .powerDown := ⟨rfl, fun _ => ⟨_, _, rfl, rfl⟩⟩

theorem reservedRequest (code : Byte) : Statement (.reservedRequest code) := by
  refine ⟨rfl, fun h => ⟨_, _, rfl, ?_⟩⟩
  have hc : assignedCodes.contains code = false := by simpa [Instr.wellFormed] using h
  simp only [assignedCodes, List.contains_cons, List.contains_nil, Bool.or_eq_false_iff, beq_eq_false_iff_ne] at hc
  have h5 : code ≠ 0x05 := hc.2.2.2.2.1
  have h6 : code ≠ 0x06 := hc.2.2.2.2.2.1
  have h2 : ¬ (code = 0x01 ∨ code = 0x02 ∨ code = 0x08 ∨ code = 0x11 ∨ code = 0x12 ∨ code = 0x13 ∨ code = 0x14) := by
    tauto
  rw [requestLength, if_neg h5, if_neg h6, if_neg h2]
  rfl

theorem driverOutputControl : Statement .driverOutputControl := ⟨rfl, fun h => absurd h (by decide), fun ⟨_, h⟩ => nomatch h⟩

theorem deepSleepMode : Statement .deepSleepMode := ⟨rfl, fun h => absurd h (by decide), fun ⟨_, h⟩ => nomatch h⟩

theorem dataEntryMode : Statement .dataEntryMode := ⟨rfl, fun h => absurd h (by decide), fun ⟨_, h⟩ => nomatch h⟩

theorem softwareReset : Statement .softwareReset := ⟨rfl, fun h => absurd h (by decide), fun ⟨_, h⟩ => nomatch h⟩

theorem masterActivation : Statement .masterActivation := ⟨rfl, fun h => absurd h (by decide), fun ⟨_, h⟩ => nomatch h⟩

theorem displayUpdateControl : Statement .displayUpdateControl := ⟨rfl, fun h => absurd h (by decide), fun ⟨_, h⟩ => nomatch h⟩

theorem displayUpdateControl2 : Statement .displayUpdateControl2 := ⟨rfl, fun h => absurd h (by decide), fun ⟨_, h⟩ => nomatch h⟩

theorem writeRamA : Statement .writeRamA := ⟨rfl, fun h => absurd h (by decide), fun ⟨_, h⟩ => nomatch h⟩

theorem writeRamB : Statement .writeRamB := ⟨rfl, fun h => absurd h (by decide), fun ⟨_, h⟩ => nomatch h⟩

theorem writeLut : Statement .writeLut := ⟨rfl, fun h => absurd h (by decide), fun ⟨_, h⟩ => nomatch h⟩

theorem gateBorderConfig : Statement .gateBorderConfig := ⟨rfl, fun h => absurd h (by decide), fun ⟨_, h⟩ => nomatch h⟩

theorem borderWaveform : Statement .borderWaveform := ⟨rfl, fun h => absurd h (by decide), fun ⟨_, h⟩ => nomatch h⟩

theorem setRamXRange : Statement .setRamXRange := ⟨rfl, fun h => absurd h (by decide), fun ⟨_, h⟩ => nomatch h⟩

theorem setRamYRange : Statement .setRamYRange := ⟨rfl, fun h => absurd h (by decide), fun ⟨_, h⟩ => nomatch h⟩

theorem setRamXCounter : Statement .setRamXCounter := ⟨rfl, fun h => absurd h (by decide), fun ⟨_, h⟩ => nomatch h⟩

theorem setRamYCounter : Statement .setRamYCounter := ⟨rfl, fun h => absurd h (by decide), fun ⟨_, h⟩ => nomatch h⟩

theorem dataFrame (b : Byte) : Statement (.dataFrame b) := ⟨rfl, fun _ => ⟨b, rfl⟩, fun _ => (symbol_data b).1⟩

theorem commandFrameRaw (b : Byte) : Statement (.commandFrameRaw b) := ⟨rfl, fun h => absurd ((symbol_command b).1.symm.trans h) Bool.false_ne_true, fun ⟨_, h⟩ => nomatch h⟩

end Sys2Proof.Laws.EncodedShape
end

