-- ==== Sys2Proof/Laws/Sequencer.lean ====
section
/-!
SUPPORT. What each shared operation of the sequencer can do, once: the checks, one turn of the poll loop, the burst's body and its
advance, and what a framebuffer read can yield.
-/

namespace Sys2Proof.Machine

/-- The legality check passes or raises `IllegalRequest` (R39, R195). -/
theorem checkLegality_cases (s : State) :
    (legalIn s.op s.macroState = true ∧ checkLegality s = s) ∨
    (legalIn s.op s.macroState = false ∧ checkLegality s = s.complete .illegalRequest) := by
  unfold checkLegality
  cases legalIn s.op s.macroState
  · exact .inr ⟨rfl, rfl⟩
  · exact .inl ⟨rfl, rfl⟩

/-- The absent-image test passes or raises `MissingImage` (R158, R192). -/
theorem checkImage_cases (s : State) :
    (bitOperand s.a0 = true ∧ checkImage s = s) ∨ (bitOperand s.a0 = false ∧ checkImage s = s.complete .missingImage) := by
  unfold checkImage
  cases bitOperand s.a0
  · exact .inr ⟨rfl, rfl⟩
  · exact .inl ⟨rfl, rfl⟩

/-- One turn of the poll loop leaves it, goes on to the delay, or raises `SyncTimeout` (R121, R124). -/
theorem pollOnce_cases (s : State) :
    (s.nextLevel = false ∧ pollOnce s = s.sample) ∨
    (s.nextLevel = true ∧ s.cfg.pollLimit = some (s.polls + 1) ∧
      pollOnce s = ({ s.sample with polls := s.polls + 1 } : State).complete .syncTimeout) ∨
    (s.nextLevel = true ∧ s.cfg.pollLimit ≠ some (s.polls + 1) ∧
      pollOnce s = ({ s.sample with polls := s.polls + 1 } : State).prepend [.pollDelay]) := by
  have hc : s.sample.cfg = s.cfg := by simp [State.sample]
  have hp : s.sample.polls = s.polls := by simp [State.sample]
  unfold pollOnce
  cases s.nextLevel
  · exact .inl ⟨rfl, rfl⟩
  · simp only [if_true, afterBusySample, hc, hp]
    by_cases h : s.cfg.pollLimit = some (s.polls + 1)
    · exact .inr (.inl ⟨trivial, h, if_pos h⟩)
    · exact .inr (.inr ⟨trivial, h, if_neg h⟩)

/-- The body of a burst takes its byte and leaves the frame and the advance to do; a framebuffer address outside `BUF_LEN` is the
one fault (R150, R62). -/
theorem burstBody_cases (src : BurstSource) (s : State) :
    (∃ c, src = .constant c ∧ burstBody src s = .next (s.prepend [data c, .burstNext src])) ∨
    (src = .framebuffer ∧ fbAddress s.cfg s.row s.col < s.cfg.bufLen ∧
      burstBody src s = .next ((s.readFb (fbAddress s.cfg s.row s.col)).prepend
        [data (s.fbValue (fbAddress s.cfg s.row s.col)), .burstNext src])) ∨
    (src = .framebuffer ∧ s.cfg.bufLen ≤ fbAddress s.cfg s.row s.col ∧
      burstBody src s = .fault (.noSuchFramebufferByte (fbAddress s.cfg s.row s.col))) := by
  cases src with
  | constant c => exact .inl ⟨c, rfl, rfl⟩
  | framebuffer =>
    by_cases h : fbAddress s.cfg s.row s.col < s.cfg.bufLen
    · exact .inr (.inl ⟨rfl, h, if_pos h⟩)
    · exact .inr (.inr ⟨rfl, Nat.le_of_not_lt h, if_neg h⟩)

/-- The advance of a burst: to the next column byte, to the next row, or out of the loop (R150, R24). -/
theorem advanceBurst_cases (src : BurstSource) (s : State) :
    (s.col.toNat + 1 < s.cfg.rowBytes ∧
      advanceBurst src s = ({ s with col := s.col + 1 } : State).prepend [.burstByte src]) ∨
    (s.cfg.rowBytes ≤ s.col.toNat + 1 ∧ s.row.toNat + 1 < s.cfg.height ∧
      advanceBurst src s = ({ s with col := 0, row := s.row + 1 } : State).prepend [.burstByte src]) ∨
    (s.cfg.rowBytes ≤ s.col.toNat + 1 ∧ s.cfg.height ≤ s.row.toNat + 1 ∧ advanceBurst src s = s) := by
  unfold advanceBurst
  by_cases h : s.col.toNat + 1 < s.cfg.rowBytes
  · exact .inl ⟨h, if_pos h⟩
  · rw [if_neg h]
    by_cases h' : s.row.toNat + 1 < s.cfg.height
    · exact .inr (.inl ⟨Nat.le_of_not_lt h, h', if_pos h'⟩)
    · exact .inr (.inr ⟨Nat.le_of_not_lt h, Nat.le_of_not_lt h', if_neg h'⟩)

/-- A framebuffer read yields the byte held there or one that a host write during the operation replaced (R68). -/
theorem State.fbValue_mem (s : State) (a : Nat) : s.fbValue a ∈ Memory.read s.fb a :: s.racedAt a := by
  unfold State.fbValue
  cases s.racedAt a with
  | nil => exact List.mem_cons_self
  | cons old olds =>
    have inside : Config.freeRace s.draws % ((old :: olds).length + 1) < (Memory.read s.fb a :: old :: olds).length :=
      Nat.mod_lt _ (Nat.succ_pos _)
    simp only [List.getD_eq_getElem?_getD, List.getElem?_eq_getElem inside, Option.getD_some]
    exact List.getElem_mem inside

/-- A host write during an operation adds the byte it replaces to those a read of its address may yield, and to no other's (R68). -/
theorem State.racedAt_cons (s : State) (a b : Nat) (old : Byte) :
    ({ s with raced := (a, old) :: s.raced } : State).racedAt b = if a = b then old :: s.racedAt b else s.racedAt b := by
  unfold State.racedAt
  by_cases h : a = b <;> simp [h]

end Sys2Proof.Machine
end

