-- ==== Sys2Proof/Laws/Step.lean ====
section
/-!
SUPPORT. What a step can do, said once: an invariant of the machine is a case analysis over `Steps`.
-/

namespace Sys2Proof.Machine

/-- Whatever bytes the operands of a request are read from, what is read is a request. -/
def ReadsRequests (operands : OperandDecoder) : Prop :=
  ∀ bytes i rest, operands bytes = .ok (i, rest) → i.isRequest = true

theorem readsRequests_noOperand {i : Instr} (hi : i.isRequest = true) : ReadsRequests (noOperand i) := by
  intro bytes j rest h
  cases h
  exact hi

theorem readsRequests_byteOperand {code : Byte} {mk : Byte → Instr} (hi : ∀ b, (mk b).isRequest = true) :
    ReadsRequests (byteOperand code mk) := by
  intro bytes j rest h
  obtain ⟨b, rfl, -⟩ := byteOperand_ok h
  exact hi b

theorem readsRequests_windowOperands : ReadsRequests windowOperands := by
  intro bytes j rest h
  obtain ⟨_, _, _, _, _, _, _, _, -, e⟩ := windowOperands_ok h
  exact e ▸ rfl

theorem readsRequests_cursorOperands : ReadsRequests cursorOperands := by
  intro bytes j rest h
  obtain ⟨_, _, _, _, -, e⟩ := cursorOperands_ok h
  exact e ▸ rfl

/-- Every row of the request code map reads a request (R91). -/
theorem requestRows_readRequests : ∀ row ∈ requestRows, ReadsRequests row.2 := by
  simp only [requestRows, List.forall_mem_cons]
  and_intros
  all_goals first
    | exact readsRequests_noOperand rfl
    | exact readsRequests_byteOperand fun _ => rfl
    | exact readsRequests_windowOperands
    | exact readsRequests_cursorOperands
    | exact List.forall_mem_nil _

/-- What is decoded from request bytes is a request. -/
theorem decodeRequest_isRequest {bytes rest : List Byte} {i : Instr} (h : decodeRequest bytes = .ok (i, rest)) :
    i.isRequest = true := by
  cases bytes with
  | nil => cases h
  | cons code more =>
    rcases decodeRequest_cons code more with ⟨operands, row, e⟩ | ⟨-, e⟩ <;> rw [e] at h
    · exact requestRows_readRequests _ row more i rest h
    · cases h
      rfl

/-- What one step of the core makes of `s`. -/
inductive Steps (s t : State) : Prop where
  /-- no request to accept (R221) -/
  | quiet (ready : s.ready = true) (h : t = s)
  /-- a request is accepted (R38), the port's stream moved to `rest` -/
  | accepted (i : Instr) (rest : List Byte) (ready : s.ready = true) (hi : i.isRequest = true)
      (h : exec i { s with port := rest } = .next t)
  /-- the operation in progress completes with `OK` (R40) -/
  | completed (busy : s.ready = false) (todo : s.todo = []) (h : t = s.complete .ok)
  /-- the operation in progress does its next element -/
  | micro (m : Micro) (rest : List Micro) (busy : s.ready = false) (todo : s.todo = m :: rest)
      (h : runMicro m (s.withTodo rest) = .next t)

theorem coreStep_next {s t : State} (h : coreStep s = .next t) : Steps s t := by
  unfold coreStep at h
  split at h
  · rename_i hr
    unfold acceptNext at h
    split at h
    · rename_i i rest hd
      exact .accepted i rest hr (decodeRequest_isRequest hd) h
    · cases h
      exact .quiet hr rfl
    · cases h
  · rename_i hr
    have hb : s.ready = false := by simpa using hr
    unfold advance at h
    split at h
    · rename_i hd
      cases h
      exact .completed hb hd rfl
    · rename_i m rest hd
      exact .micro m rest hb hd h

/-- A request presented by force is accepted at `READY = 1` and lost at `READY = 0` (R38). -/
theorem presentNow_next {s t : State} {bytes : List Byte} (h : presentNow bytes s = .next t) :
    Steps s t ∨ (s.ready = false ∧ t = s) := by
  unfold presentNow at h
  split at h
  · rename_i i hd
    have hi := decodeRequest_isRequest hd
    cases hr : s.ready
    · obtain ⟨code, o0, o1, o2, o3, body, e⟩ := exec_isRequest hi
      rw [e, present_busy hr] at h
      cases h
      exact .inr ⟨rfl, rfl⟩
    · exact .inl (.accepted i s.port hr hi h)
  · cases hr : s.ready <;> rw [hr] at h <;> cases h
    exact .inr ⟨rfl, rfl⟩
  · cases hr : s.ready <;> rw [hr] at h <;> cases h
    exact .inr ⟨rfl, rfl⟩

/-- The state once a move of the host has been taken from the list. -/
def State.moved (rest : List HostMove) (s : State) : State := { s with moves := rest }

/-- The step, in every case: the configuration is legal; and with no move of the host, the core steps; with one, that move is
taken and the core steps, or a request is presented and lost, or a framebuffer byte is written, or the core is reset. -/
theorem step_next {s t : State} (h : step s = .next t) :
    s.cfg.Legal ∧
    ((s.moves = [] ∧ Steps s t) ∨
     ∃ m rest, s.moves = m :: rest ∧
      (((m = .letRun ∨ ∃ bytes, m = .present bytes) ∧ Steps (s.moved rest) t) ∨
       ((∃ bytes, m = .present bytes) ∧ s.ready = false ∧ t = s.moved rest) ∨
       (∃ a v, m = .writeFb a v ∧ hostWriteFb a v (s.moved rest) = .next t) ∨
       (m = .coreReset ∧ t = (s.moved rest).coreReset))) := by
  unfold step at h
  split at h
  · rename_i hl
    refine ⟨hl, ?_⟩
    unfold machineStep at h
    split at h
    · rename_i hm
      exact .inl ⟨hm, coreStep_next h⟩
    · rename_i m rest hm
      refine .inr ⟨m, rest, hm, ?_⟩
      cases m with
      | letRun => exact .inl ⟨.inl rfl, coreStep_next h⟩
      | present bytes =>
        rcases presentNow_next h with h | ⟨hr, h⟩
        · exact .inl ⟨.inr ⟨bytes, rfl⟩, h⟩
        · exact .inr (.inl ⟨⟨bytes, rfl⟩, hr, h⟩)
      | writeFb a v => exact .inr (.inr (.inl ⟨a, v, rfl, h⟩))
      | coreReset =>
        cases h
        exact .inr (.inr (.inr ⟨rfl, rfl⟩))
  · cases h

end Sys2Proof.Machine
end

