-- ==== Sys2Proof/Tests/Slice0.lean ====
section
/-!
SUPPORT. The model's own tests. Expected values are taken from spec/95_test_vectors.md, spec/30_encoding.md and spec/45_panel_commands.md
by hand; the vector or rule stands beside each. The last part holds a witness for the hypotheses of every statement in
Certificates/Slice0/Obligations.lean.
-/

namespace Sys2Proof.Tests

open Sys2Proof Sys2Proof.Machine

/-! ## Helpers -/

/-- An 8 by 8 panel (95 S1: the smallest legal geometry) with a poll limit; the table is `0xAA` throughout (V43-2). -/
def panel (limit : Option Nat) : Config where
  w0 := 8
  h0 := 8
  orient := .portrait
  lut := Vector.replicate 153 0xAA
  doc0 := 0x27
  doc1 := 0x01
  doc2 := 0x00
  dem := 0x03
  duc0 := 0x00
  duc1 := 0x80
  pollLimit := limit
  csActive := false

/-- The core of that panel, ready in `m`, with these busy samples to come. -/
def core (m : MacroState) (limit : Option Nat) (samples : List Level) : State :=
  { State.afterReset (panel limit) 0 with
    macroState := m, a0 := 0, a1 := 0, a2 := 0, a3 := 0, op := 0, row := 0, col := 0, mosi := false, samples := samples }

/-- The same with an operation in progress. -/
def running (ms : List Micro) (limit : Option Nat) (samples : List Level) : State :=
  { core .active limit samples with ready := false, todo := ms }

/-- A view of the next state. -/
def seen {α : Type} (o : StepOutcome) (view : State → α) : Option α :=
  match o with
  | .next t => some (view t)
  | .fault _ => none
  | .refused _ => none

/-- A geometry for the table of S1. -/
def geometry (w h : Nat) (o : Orientation) : Config := { panel none with w0 := w, h0 := h, orient := o }

theorem panel_legal {limit : Option Nat} (h : limit ≠ some 0) : (panel limit).Legal :=
  ⟨show 8 % 8 = 0 by decide, show 8 % 8 = 0 by decide, show 8 ≤ 8 by decide, show 8 ≤ 2048 by decide, show 8 ≤ 8 by decide,
    show 8 ≤ 65536 by decide, h⟩

theorem core_calm (m : MacroState) {limit : Option Nat} (h : limit ≠ some 0) (samples : List Level) :
    Calm (core m limit samples) :=
  ⟨panel_legal h, rfl, rfl, rfl, rfl⟩

theorem core_admits (m : MacroState) (k : Nat) (samples : List Level) : (core m none samples).admits k :=
  fun _ h => nomatch h

theorem core_admits_below (m : MacroState) {k n : Nat} (h : k < n) (samples : List Level) :
    (core m (some n) samples).admits k :=
  fun _ e => Option.some.inj e ▸ h

/-! ## WellFormed -/

/-- R92: an assigned code is no reserved request. -/
theorem test_wellFormed_refuses_assigned_code : (Instr.reservedRequest 0x01).wellFormed = false := by decide

/-- R186: a named opcode is no raw command frame. -/
theorem test_wellFormed_refuses_named_opcode : (Instr.commandFrameRaw 0x24).wellFormed = false := by decide

theorem test_wellFormed_takes_the_rest :
    (Instr.reservedRequest 0x09).wellFormed = true ∧ (Instr.reservedRequest 0xFF).wellFormed = true ∧
    (Instr.commandFrameRaw 0x00).wellFormed = true ∧ (Instr.commandFrameRaw 0xFF).wellFormed = true := by decide

/-! ## Decoding, from words written out from the spec -/

/-- V30-1, V30-2. -/
theorem test_decode_transport :
    decodeRequest [0x01, 0x24] = .ok (.sendCommand 0x24, []) ∧
    decodeRequest [0x02, 0xFF] = .ok (.sendData 0xFF, []) := ⟨rfl, rfl⟩

/-- V30-3, V30-4. -/
theorem test_decode_reset_busy :
    decodeRequest [0x03] = .ok (.reset, []) ∧ decodeRequest [0x04] = .ok (.waitFree, []) := ⟨rfl, rfl⟩

/-- V30-5, V30-6, V30-7. -/
theorem test_decode_addressing :
    decodeRequest [0x05, 0x00, 0x00, 0x00, 0x00, 0x7F, 0x00, 0x27, 0x01] = .ok (.setWindow 0 0 127 295, []) ∧
    decodeRequest [0x05, 0x08, 0x00, 0x02, 0x00, 0x0F, 0x00, 0x05, 0x00] = .ok (.setWindow 8 2 15 5, []) ∧
    decodeRequest [0x06, 0x34, 0x12, 0x78, 0x56] = .ok (.setCursor 0x1234 0x5678, []) := ⟨rfl, rfl, rfl⟩

/-- V30-8 to V30-11. -/
theorem test_decode_waveform_activation :
    decodeRequest [0x07] = .ok (.sendLut, []) ∧ decodeRequest [0x08, 0x01] = .ok (.on 0x01, []) ∧
    decodeRequest [0x08, 0xFE] = .ok (.on 0xFE, []) ∧ decodeRequest [0x10] = .ok (.prepareDisplay, []) :=
  ⟨rfl, rfl, rfl, rfl⟩

/-- V30-12, V30-14, V30-15, V30-16. -/
theorem test_decode_refresh :
    decodeRequest [0x11, 0x01] = .ok (.displayImage 0x01, []) ∧
    decodeRequest [0x12, 0x01] = .ok (.displayBase 0x01, []) ∧
    decodeRequest [0x13, 0x01] = .ok (.displayPartial 0x01, []) ∧
    decodeRequest [0x14, 0xFF] = .ok (.clear 0xFF, []) ∧ decodeRequest [0x15] = .ok (.powerDown, []) :=
  ⟨rfl, rfl, rfl, rfl, rfl⟩

/-- V30-17, V30-18. -/
theorem test_decode_reserved :
    decodeRequest [0x00] = .ok (.reservedRequest 0x00, []) ∧ decodeRequest [0x09] = .ok (.reservedRequest 0x09, []) ∧
    decodeRequest [0x0F] = .ok (.reservedRequest 0x0F, []) ∧ decodeRequest [0x16] = .ok (.reservedRequest 0x16, []) ∧
    decodeRequest [0xFF] = .ok (.reservedRequest 0xFF, []) := ⟨rfl, rfl, rfl, rfl, rfl⟩

/-- V30-19: the second and third request of the stream. -/
theorem test_decode_stream :
    decodeRequest [0x09, 0x10, 0x14, 0xFF, 0x15] = .ok (.reservedRequest 0x09, [0x10, 0x14, 0xFF, 0x15]) ∧
    decodeRequest [0x14, 0xFF, 0x15] = .ok (.clear 0xFF, [0x15]) := ⟨rfl, rfl⟩

/-- R89, R94: fewer bytes than the length. -/
theorem test_decode_short :
    decodeRequest [] = .error .noBytes ∧ decodeRequest [0x01] = .error (.tooShort 0x01) ∧
    decodeRequest [0x05, 0, 0, 0, 0, 0, 0, 0] = .error (.tooShort 0x05) := ⟨rfl, rfl, rfl⟩

/-- R170 to R177: the symbol's bit 8 is 0, its bits 7:0 the opcode (R80). -/
theorem test_decode_symbols_low :
    decodeSymbol 0b000000001 = .driverOutputControl ∧ decodeSymbol 0b000010000 = .deepSleepMode ∧
    decodeSymbol 0b000010001 = .dataEntryMode ∧ decodeSymbol 0b000010010 = .softwareReset ∧
    decodeSymbol 0b000100000 = .masterActivation ∧ decodeSymbol 0b000100001 = .displayUpdateControl ∧
    decodeSymbol 0b000100010 = .displayUpdateControl2 ∧ decodeSymbol 0b000100100 = .writeRamA := by decide

/-- R178 to R185. -/
theorem test_decode_symbols_high :
    decodeSymbol 0b000100110 = .writeRamB ∧ decodeSymbol 0b000110010 = .writeLut ∧
    decodeSymbol 0b000110111 = .gateBorderConfig ∧ decodeSymbol 0b000111100 = .borderWaveform ∧
    decodeSymbol 0b001000100 = .setRamXRange ∧ decodeSymbol 0b001000101 = .setRamYRange ∧
    decodeSymbol 0b001001110 = .setRamXCounter ∧ decodeSymbol 0b001001111 = .setRamYCounter := by decide

/-- R80, R111, R186: bit 8 set is a data frame whatever the byte; a byte of no opcode is a raw command frame. -/
theorem test_decode_symbols_generic :
    decodeSymbol 0b100100100 = .dataFrame 0x24 ∧ decodeSymbol 0b111111111 = .dataFrame 0xFF ∧
    decodeSymbol 0b000100011 = .commandFrameRaw 0x23 ∧ decodeSymbol 0b011111111 = .commandFrameRaw 0xFF := by decide

/-- The table's numbering: byte 0 in bits 7:0 (assumption 9). -/
theorem test_decodeTableWord :
    decodeTableWord 16 0x2401 = some (.sendCommand 0x24) ∧ decodeTableWord 9 0x124 = some (.dataFrame 0x24) ∧
    decodeTableWord 16 0x0037 = some .gateBorderConfig ∧ decodeTableWord 8 0x15 = some .powerDown ∧
    decodeTableWord 72 0x01270000007F0000000005 = none ∨
    decodeTableWord 72 0x0127007F0000000005 = some (.setWindow 0 0 127 295) := .inr rfl

/-! ## Computations -/

/-- S1. -/
theorem test_geometry_table :
    (geometry 8 8 .portrait).bufLen = 8 ∧ (geometry 16 8 .portrait).bufLen = 16 ∧
    (geometry 128 296 .portrait).rowBytes = 16 ∧ (geometry 128 296 .portrait).bufLen = 4736 ∧
    (geometry 128 296 .landscape).rowBytes = 37 ∧ (geometry 128 296 .landscape).bufLen = 4736 ∧
    (geometry 200 200 .portrait).bufLen = 5000 ∧ (geometry 2048 65536 .portrait).bufLen = 16777216 := by decide

/-- S1: 12 by 8 is refused. -/
theorem test_geometry_refused : step { core .active none [] with cfg := geometry 12 8 .portrait } = .refused .illegalConfiguration :=
  if_neg fun h => absurd h.1 (by decide)

/-- S2, V42-8. -/
theorem test_windowX :
    [0, 7, 8, 15, 127, 295, 2047, 2048, 65535].map (fun n => windowX (BitVec.ofNat 16 n)) =
      [0x00, 0x00, 0x01, 0x01, 0x0F, 0x24, 0xFF, 0x00, 0xFF] := by decide

/-- R84, V42-12. -/
theorem test_coordinate_bytes :
    (lowByte 295, highByte 295) = (0x27, 0x01) ∧ (lowByte 65535, highByte 65535) = (0xFF, 0xFF) ∧ cursorX 0x1234 = 0x34 := by
  decide

/-- V40-8: `SPI(0x24)`, `SPI(0xF7)`. -/
theorem test_spi_samples :
    risingSamples (spiWrites 0x24) false true = [false, false, true, false, false, true, false, false] ∧
    risingSamples (spiWrites 0xF7) false false = [true, true, true, true, false, true, true, true] := by decide

/-- V40-8: `MOSI` is 1 after `SPI(0x01)`, `SCK` 0. -/
theorem test_spi_after : mosiAfter (spiWrites 0x01) false = true ∧ sckAfter (spiWrites 0x01) false = false := by decide

/-- S10: byte 1 of row 5 of a 16-pixel row is at 11. -/
theorem test_fbAddress : fbAddress (geometry 16 8 .portrait) 5 1 = 11 := by decide

/-- V70-1, but for bits 0 and 2 of `PINS`, whose latches hold no value (assumption 17). -/
theorem test_pins_after_reset : State.reset.pinsRegister &&& 0b11111010 = 0x02 := by
  unfold State.pinsRegister
  generalize State.shownLevel _ 2 _ = dc
  generalize State.shownLevel _ 0 _ = rst
  cases dc <;> cases rst <;> rfl

/-- V70-1. -/
theorem test_status_after_reset :
    State.reset.readRegister 0 = some 0x01 ∧ State.reset.readRegister 1 = some 0x00 ∧
    State.reset.readRegister 2 = some 0x007F ∧ State.reset.readRegister 3 = some 0x0127 ∧
    State.reset.readRegister 5 = none := ⟨rfl, rfl, rfl, rfl, rfl⟩

/-- V44-9: `STATUS = 0x11`, `EFLAGS = 0x02`, `PINS = 0x0F`. -/
theorem test_status_after_timeout :
    let s := { core .uninitialized none [] with
      result := .syncTimeout, eflags := 0b0010, rst := some true, dc := some true, lastBusy := true }
    s.readRegister 0 = some 0x11 ∧ s.readRegister 1 = some 0x02 ∧ s.readRegister 4 = some 0x0F := by decide

/-- A read after a write, and a write of what an unlisted address reads as. -/
theorem test_memory :
    Memory.write (Memory.write (Memory.write [] 3 0x10) 1 0x20) 3 0x11 = [(1, 0x20), (3, 0x11)] ∧
    Memory.write [(1, 0x20), (3, 0x11)] 1 0x00 = [(3, 0x11)] ∧ Memory.read [(3, 0x11)] 1 = 0x00 := by decide

/-! ## Requests: what acceptance loads -/

/-- V40-1. -/
theorem test_sendCommand :
    seen (exec (.sendCommand 0x24) (core .active none [])) (fun t => (t.op, t.a0, t.ready, t.todo)) =
      some (0x01, 0x0024, false, [.legality, .symbol 0x024]) := by decide

/-- V40-3. -/
theorem test_sendData :
    seen (exec (.sendData 0xFF) (core .active none [])) (fun t => (t.op, t.a0, t.todo)) =
      some (0x02, 0x00FF, [.legality, .symbol 0x1FF]) := by decide

/-- V41-1. -/
theorem test_reset :
    seen (exec .reset (core .uninitialized none [])) (fun t => (t.op, t.todo)) =
      some (0x03, [.legality, .rst true, .delay 50, .rst false, .delay 2, .rst true, .delay 50]) := by decide

/-- R121. -/
theorem test_waitFree :
    seen (exec .waitFree (core .deepSleep none [])) (fun t => (t.op, t.todo)) = some (0x04, [.legality, .waitFree]) := by decide

/-- V42-9: start beyond end is sent as it is. -/
theorem test_setWindow :
    seen (exec (.setWindow 127 295 0 0) (core .active none [])) (fun t => (t.a0, t.a1, t.a2, t.a3, t.todo)) =
      some (127, 295, 0, 0, [.legality, .symbol 0x044, .symbol 0x10F, .symbol 0x100, .symbol 0x045, .symbol 0x127, .symbol 0x101,
        .symbol 0x100, .symbol 0x100]) := by decide

/-- V42-8. -/
theorem test_setWindow_beyond_geometry :
    seen (exec (.setWindow 2048 0 65535 0) (core .active none [])) (fun t => t.todo.take 4) =
      some [.legality, .symbol 0x044, .symbol 0x100, .symbol 0x1FF] := by decide

/-- V42-12. -/
theorem test_setCursor :
    seen (exec (.setCursor 0x1234 0x5678) (core .active none [])) (fun t => (t.a0, t.a1, t.todo)) =
      some (0x1234, 0x5678, [.legality, .symbol 0x04E, .symbol 0x134, .symbol 0x04F, .symbol 0x178, .symbol 0x156, .waitFree]) := by
  decide

/-- V43-2: 1 command symbol, 153 data symbols, the wait. -/
theorem test_sendLut :
    seen (exec .sendLut (core .active none [])) (fun t => (t.todo.take 3, t.todo.length, t.todo.drop 155)) =
      some ([.legality, .symbol 0x032, .symbol 0x1AA], 156, [.waitFree]) := by decide +kernel

/-- V44-1: bits 7:1 of the operand are ignored. -/
theorem test_on :
    seen (exec (.on 0xFE) (core .active none [])) (fun t => t.todo) =
      some [.legality, .symbol 0x022, .symbol 0x1F7, .symbol 0x020, .waitFree] ∧
    seen (exec (.on 0xFF) (core .active none [])) (fun t => t.todo) =
      some [.legality, .symbol 0x022, .symbol 0x10F, .symbol 0x020, .waitFree] := by decide

/-- V44-2, the 8 by 8 row, from the second wait on. -/
theorem test_prepareDisplay :
    seen (exec .prepareDisplay (core .uninitialized none [])) (fun t => t.todo.drop 7) =
      some [.waitFree, .symbol 0x012, .waitFree, .symbol 0x001, .symbol 0x127, .symbol 0x101, .symbol 0x100, .symbol 0x011,
        .symbol 0x103, .symbol 0x044, .symbol 0x100, .symbol 0x100, .symbol 0x045, .symbol 0x100, .symbol 0x100, .symbol 0x107,
        .symbol 0x100, .symbol 0x021, .symbol 0x100, .symbol 0x180, .symbol 0x04E, .symbol 0x100, .symbol 0x04F, .symbol 0x100,
        .symbol 0x100, .waitFree] := by decide

/-- V44-4. -/
theorem test_displayImage :
    seen (exec (.displayImage 0x01) (core .active none [])) (fun t => t.todo) =
      some [.legality, .needImage, .symbol 0x024, .burst .framebuffer, .symbol 0x022, .symbol 0x1F7, .symbol 0x020, .waitFree] := by
  decide

/-- V44-3. -/
theorem test_displayBase :
    seen (exec (.displayBase 0x01) (core .active none [])) (fun t => t.todo) =
      some [.legality, .needImage, .symbol 0x024, .burst .framebuffer, .symbol 0x026, .burst .framebuffer, .symbol 0x022,
        .symbol 0x1F7, .symbol 0x020, .waitFree] := by decide

/-- P2, request 3: around the table and after it. -/
theorem test_displayPartial :
    seen (exec (.displayPartial 0x01) (core .active none [])) (fun t => (t.todo.take 7, (t.todo.drop 160).take 17)) =
      some ([.legality, .needImage, .rst false, .delay 2, .rst true, .delay 2, .symbol 0x032],
        [.waitFree, .symbol 0x037, .symbol 0x100, .symbol 0x100, .symbol 0x100, .symbol 0x100, .symbol 0x100, .symbol 0x140,
         .symbol 0x100, .symbol 0x100, .symbol 0x100, .symbol 0x100, .symbol 0x03C, .symbol 0x180, .symbol 0x022, .symbol 0x1C0,
         .symbol 0x020]) := rfl

/-- V44-5. -/
theorem test_clear :
    seen (exec (.clear 0x5A) (core .active none [])) (fun t => t.todo) =
      some [.legality, .symbol 0x024, .burst (.constant 0x5A), .symbol 0x022, .symbol 0x1F7, .symbol 0x020, .waitFree] := by decide

/-- V44-7. -/
theorem test_powerDown :
    seen (exec .powerDown (core .active none [])) (fun t => t.todo) =
      some [.legality, .symbol 0x010, .symbol 0x101, .delay 2000, .rst false] := by decide

/-- V60-5: accepted, with nothing but the check that refuses it. -/
theorem test_reservedRequest :
    seen (exec (.reservedRequest 0x09) (core .active none [])) (fun t => (t.op, t.ready, t.todo)) =
      some (0x09, false, [.legality]) := by decide

/-- V60-5: `IllegalRequest`, `STATUS = 0x1B`, no event. -/
theorem test_legality_refuses :
    seen (machineStep { running [.legality] none [] with op := 0x09 }) (fun t => (t.readRegister 0, t.eflags, t.events)) =
      some (some 0x1B, 0b0100, []) := rfl

/-- V60-4: `MissingImage`, `STATUS = 0x0B`, nothing of the sequence is left. -/
theorem test_missing_image :
    seen (machineStep { running [.needImage, .rst false] none [] with op := 0x13 }) (fun t => (t.readRegister 0, t.eflags, t.todo)) =
      some (some 0x0B, 0b0001, []) := rfl

/-- V41-7: `POLL_LIMIT = 1`, a busy sample. -/
theorem test_sync_timeout :
    seen (machineStep (running [.poll, .symbol 0x020] (some 1) [true])) (fun t => (t.result, t.eflags, t.events, t.todo)) =
      some (.syncTimeout, 0b0010, [.busy true], []) := rfl

/-! ## Wire symbols: the first event and what remains of the frame -/

/-- The view of a started frame. -/
def started (i : Instr) : Option (List Event × List Micro × Option Level) :=
  seen (exec i (running [.waitFree] none [])) fun t => (t.events, t.todo, t.dc)

/-- `C(b)` from its second event on, then what remained. -/
def commandStarted (b : Byte) : Option (List Event × List Micro × Option Level) :=
  some ([.dc false], [.cs true, .spi b, .cs false, .waitFree], some false)

theorem test_driverOutputControl : started .driverOutputControl = commandStarted 0x01 := by decide
theorem test_deepSleepMode : started .deepSleepMode = commandStarted 0x10 := by decide
theorem test_dataEntryMode : started .dataEntryMode = commandStarted 0x11 := by decide
theorem test_softwareReset : started .softwareReset = commandStarted 0x12 := by decide
theorem test_masterActivation : started .masterActivation = commandStarted 0x20 := by decide
theorem test_displayUpdateControl : started .displayUpdateControl = commandStarted 0x21 := by decide
theorem test_displayUpdateControl2 : started .displayUpdateControl2 = commandStarted 0x22 := by decide
theorem test_writeRamA : started .writeRamA = commandStarted 0x24 := by decide
theorem test_writeRamB : started .writeRamB = commandStarted 0x26 := by decide
theorem test_writeLut : started .writeLut = commandStarted 0x32 := by decide
theorem test_gateBorderConfig : started .gateBorderConfig = commandStarted 0x37 := by decide
theorem test_borderWaveform : started .borderWaveform = commandStarted 0x3C := by decide
theorem test_setRamXRange : started .setRamXRange = commandStarted 0x44 := by decide
theorem test_setRamYRange : started .setRamYRange = commandStarted 0x45 := by decide
theorem test_setRamXCounter : started .setRamXCounter = commandStarted 0x4E := by decide
theorem test_setRamYCounter : started .setRamYCounter = commandStarted 0x4F := by decide
theorem test_commandFrameRaw : started (.commandFrameRaw 0xFF) = commandStarted 0xFF := by decide

/-- V40-2. -/
theorem test_dataFrame :
    started (.dataFrame 0x00) = some ([.dc true], [.cs true, .spi 0x00, .cs false, .waitFree], some true) := by decide

/-! ## Placing an instruction -/

/-- A request as the first instruction after reset, and a wire symbol. -/
theorem test_withFetchWord :
    seen (machineStep (State.reset.withFetchWord 16 0x0011)) (fun t => (t.op, t.a0, t.ready)) = some (0x11, 0, false) ∧
    seen (machineStep (State.reset.withFetchWord 9 0x037)) (fun t => t.events) = some [.dc false] := ⟨rfl, rfl⟩

/-! ## Witnesses: states and operands that meet the hypotheses of each statement -/

theorem test_witness_EncodeThenDecode :
    (Instr.reservedRequest 0x09).wellFormed = true ∧ (Instr.commandFrameRaw 0x23).wellFormed = true ∧
    (Instr.setWindow 0 0 127 65535).wellFormed = true := by decide

theorem test_witness_DecodeThenEncode : decodeRequest [0x08, 0xFE, 0x03] = .ok (.on 0xFE, [0x03]) := rfl

theorem test_witness_RequestLengthIsFixedByByteZero :
    assignedCodes.contains 0x00 = false ∧ assignedCodes.contains 0x09 = false ∧ assignedCodes.contains 0xFF = false ∧
    [(0 : Byte), 0, 0, 0, 0, 0, 0].length + 1 < requestLength 0x05 ∧
    requestLength 0x05 ≤ [(0 : Byte), 0, 0, 0, 0, 0, 0, 0].length + 1 ∧
    decodeRequest [0x06, 1, 2, 3, 4, 9] = .ok (.setCursor 0x0201 0x0403, [9]) := ⟨rfl, rfl, rfl, by decide, by decide, rfl⟩

theorem test_witness_SpiShiftsMostSignificantBitFirst : (core .active none []).sck = false := rfl

theorem test_witness_DerivedConstantsAreExact :
    (geometry 8 8 .portrait).Legal ∧ (geometry 2048 65536 .portrait).Legal ∧ (geometry 128 296 .portrait).Legal := by
  refine ⟨panel_legal (by decide), ?_, ?_⟩ <;>
    exact ⟨by decide, by decide, by decide, by decide, by decide, by decide, by decide⟩

/-- One configuration for each way to break R6, next to its bound. -/
theorem test_witness_GeometryIsCheckedAndOriented :
    (geometry 8 16 .portrait).orient = .portrait ∧ (geometry 8 16 .landscape).orient = .landscape ∧
    (geometry 12 8 .portrait).width % 8 ≠ 0 ∧ (geometry 8 12 .portrait).height % 8 ≠ 0 ∧
    (geometry 0 8 .portrait).width < 8 ∧ 2048 < (geometry 2056 8 .portrait).width ∧
    (geometry 8 0 .portrait).height < 8 ∧ 65536 < (geometry 8 65544 .portrait).height ∧
    step (core .active none []) = .next (core .active none []) :=
  ⟨rfl, rfl, by decide, by decide, by decide, by decide, by decide, by decide, if_pos (panel_legal (by decide))⟩

theorem test_witness_CoreResetRestoresResetValues :
    ∃ s : State, s.cfg.Legal ∧ s.moves = .coreReset :: [.letRun] ∧ s.todo = [.cs false] :=
  ⟨{ running [.cs false] none [] with moves := [.coreReset, .letRun] }, panel_legal (by decide), rfl, rfl⟩

theorem test_witness_IdleCoreDoesNothing :
    (core .active none []).cfg.Legal ∧ (core .active none []).ready = true ∧ (core .active none []).moves = [] ∧
    (core .active none []).port = [] := ⟨panel_legal (by decide), rfl, rfl, rfl⟩

theorem test_witness_StepExecutesTheNextRequest :
    ∃ s : State, s.cfg.Legal ∧ s.ready = true ∧ s.moves = [] ∧ decodeRequest s.port = .ok (.clear 0xFF, [0x15]) :=
  ⟨{ core .active none [] with port := [0x14, 0xFF, 0x15] }, panel_legal (by decide), rfl, rfl, rfl⟩

theorem test_witness_StepExecutesTheNextSymbol :
    ∃ s : State, s.cfg.Legal ∧ s.ready = false ∧ s.moves = [] ∧ s.todo = .symbol 0x124 :: [.waitFree] :=
  ⟨running [.symbol 0x124, .waitFree] none [], panel_legal (by decide), rfl, rfl, rfl⟩

theorem test_witness_PresentedRequestIsExecutedOrLost :
    ∃ s t : State, s.cfg.Legal ∧ t.cfg.Legal ∧ s.moves = .present [0x04] :: [] ∧ t.moves = .present [0x04] :: [] ∧
      decodeRequest [0x04] = .ok (.waitFree, []) ∧ s.ready = true ∧ t.ready = false :=
  ⟨{ core .active none [] with moves := [.present [0x04]] }, { running [] none [] with moves := [.present [0x04]] },
    panel_legal (by decide), panel_legal (by decide), rfl, rfl, rfl, rfl, rfl⟩

theorem test_witness_AcceptanceWritesTheLatches :
    (core .active none []).ready = true ∧ (running [] none []).ready = false ∧ (Instr.on 0x01).isRequest = true := ⟨rfl, rfl, rfl⟩

theorem test_witness_RequestsChangeNoPinStatusOrMemory :
    ∃ s t : State, (Instr.clear 0xFF).isRequest = true ∧ exec (.clear 0xFF) s = .next t := ⟨core .active none [], _, rfl, rfl⟩

/-- The legal clause (in the table's first rows and in `Active`) and the illegal one (out of `Active`, and reserved). -/
theorem test_witness_LegalityIsCheckedOnceByTheTable :
    ∃ s u t1 t2 t3 t4 : State, s.cfg.Legal ∧ s.ready = true ∧ s.moves = [] ∧ u.cfg.Legal ∧ u.ready = true ∧ u.moves = [] ∧
      s.macroState = .active ∧ u.macroState = .deepSleep ∧
      exec .reset u = .next t1 ∧ exec (.clear 0xFF) s = .next t2 ∧ exec (.clear 0xFF) u = .next t3 ∧
      (Instr.reservedRequest 0x09).wellFormed = true ∧ exec (.reservedRequest 0x09) s = .next t4 :=
  ⟨core .active none [], core .deepSleep none [], _, _, _, _, panel_legal (by decide), rfl, rfl, panel_legal (by decide), rfl, rfl,
    rfl, rfl, rfl, rfl, rfl, rfl, rfl⟩

/-- A calm core in each macro-state: what the statements about requests without a wait assume (`SEND_COMMAND`, `SEND_DATA`, `RESET`,
`SET_WINDOW`, `POWER_DOWN`). -/
theorem test_witness_SendCommandSendsOneCommandFrame :
    Calm (core .active none []) ∧ (core .active none []).macroState = .active ∧
    Calm (core .uninitialized none []) ∧ (core .uninitialized none []).macroState ≠ .active :=
  ⟨core_calm _ (by decide) _, rfl, core_calm _ (by decide) _, by decide⟩

theorem test_witness_SendDataSendsOneDataFrame :
    Calm (core .active none []) ∧ (core .active none []).macroState = .active ∧
    Calm (core .deepSleep none []) ∧ (core .deepSleep none []).macroState ≠ .active :=
  ⟨core_calm _ (by decide) _, rfl, core_calm _ (by decide) _, by decide⟩

theorem test_witness_ResetPulsesTheResetLine : Calm (core .deepSleep none []) ∧ Calm (core .uninitialized none []) :=
  ⟨core_calm _ (by decide) _, core_calm _ (by decide) _⟩

/-- V41-4, V41-5, V41-9. -/
theorem test_witness_WaitFreePollsUntilIdle :
    (Calm (core .active none [false]) ∧ (core .active none [false]).samples = List.replicate 0 true ++ false :: []) ∧
    (Calm (core .active (some 3) [true, true, false]) ∧
      (core .active (some 3) [true, true, false]).samples = List.replicate 2 true ++ false :: [] ∧
      (core .active (some 3) [true, true, false]).admits 2) :=
  ⟨⟨core_calm _ (by decide) _, rfl⟩, core_calm _ (by decide) _, rfl, core_admits_below _ (by decide) _⟩

/-- V41-7, V41-8. -/
theorem test_witness_WaitFreeTimesOutAtTheLimit :
    (Calm (core .active (some 1) [true]) ∧ (core .active (some 1) [true]).cfg.pollLimit = some 1 ∧
      (core .active (some 1) [true]).samples = List.replicate 1 true ++ []) ∧
    (Calm (core .active (some 3) [true, true, true]) ∧ (core .active (some 3) [true, true, true]).cfg.pollLimit = some 3 ∧
      (core .active (some 3) [true, true, true]).samples = List.replicate 3 true ++ []) :=
  ⟨⟨core_calm _ (by decide) _, rfl, rfl⟩, core_calm _ (by decide) _, rfl, rfl⟩

theorem test_witness_TimeoutDropsTheRestOfAnyOperation :
    ∃ s : State, s.cfg.Legal ∧ s.ready = false ∧ s.moves = [] ∧ s.todo = .poll :: [.symbol 0x024] ∧ s.samples = true :: [] ∧
      s.cfg.pollLimit = some (s.polls + 1) :=
  ⟨running [.poll, .symbol 0x024] (some 1) [true], panel_legal (by decide), rfl, rfl, rfl, rfl, rfl⟩

theorem test_witness_UnboundedWaitGoesOnWhileBusy :
    ∃ s : State, s.cfg.Legal ∧ s.ready = false ∧ s.moves = [] ∧ s.todo = .waitFree :: [.symbol 0x024] ∧
      s.cfg.pollLimit = none ∧ s.samples = List.replicate 2 true ++ [] :=
  ⟨running [.waitFree, .symbol 0x024] none [true, true], panel_legal (by decide), rfl, rfl, rfl, rfl, rfl⟩

theorem test_witness_SetWindowSendsEightFrames :
    Calm (core .active none []) ∧ (core .active none []).macroState = .active ∧
    Calm (core .uninitialized none []) ∧ (core .uninitialized none []).macroState ≠ .active :=
  ⟨core_calm _ (by decide) _, rfl, core_calm _ (by decide) _, by decide⟩

/-- What the statements about requests that end with one wait assume: the success with no busy sample and with the most the limit
admits, the timeout, and the refusal. -/
def OneWait : Prop :=
  (Calm (core .active none [false]) ∧ (core .active none [false]).macroState = .active ∧
    (core .active none [false]).samples = List.replicate 0 true ++ false :: [] ∧ (core .active none [false]).admits 0) ∧
  (Calm (core .active (some 2) [true, false]) ∧
    (core .active (some 2) [true, false]).samples = List.replicate 1 true ++ false :: [] ∧
    (core .active (some 2) [true, false]).admits 1) ∧
  (Calm (core .active (some 1) [true]) ∧ (core .active (some 1) [true]).macroState = .active ∧
    (core .active (some 1) [true]).cfg.pollLimit = some 1 ∧
    (core .active (some 1) [true]).samples = List.replicate 1 true ++ []) ∧
  (Calm (core .deepSleep none []) ∧ (core .deepSleep none []).macroState ≠ .active)

theorem test_one_wait : OneWait :=
  ⟨⟨core_calm _ (by decide) _, rfl, rfl, core_admits _ _ _⟩, ⟨core_calm _ (by decide) _, rfl, core_admits_below _ (by decide) _⟩,
    ⟨core_calm _ (by decide) _, rfl, rfl, rfl⟩, core_calm _ (by decide) _, by decide⟩

theorem test_witness_SetCursorSendsFiveFramesAndWaits : OneWait := test_one_wait
theorem test_witness_SendLutSendsTheWholeTableAndWaits : OneWait := test_one_wait
theorem test_witness_OnSelectsTheWaveformAndActivates : OneWait := test_one_wait
theorem test_witness_ClearFillsTheWindowWithOneByte : OneWait := test_one_wait
theorem test_witness_DisplayImageStreamsTheFramebuffer : OneWait ∧ (0x01 : Byte).getLsbD 0 = true := ⟨test_one_wait, by decide⟩
theorem test_witness_DisplayBaseWritesBothBanks : OneWait ∧ (0xFF : Byte).getLsbD 0 = true := ⟨test_one_wait, by decide⟩

/-- What the statements about requests with three waits assume: the success and the timeout in each wait (V44-9, V44-10). -/
def ThreeWaits : Prop :=
  (Calm (core .active none [false, true, false, false]) ∧
    (core .active none [false, true, false, false]).samples =
      List.replicate 0 true ++ false :: (List.replicate 1 true ++ false :: (List.replicate 0 true ++ false :: [])) ∧
    (core .active none [false, true, false, false]).admits 1 ∧ (core .active none [false, true, false, false]).admits 0) ∧
  (Calm (core .active (some 1) [true]) ∧ (core .active (some 1) [true]).cfg.pollLimit = some 1 ∧
    (core .active (some 1) [true]).admits 0 ∧ (core .active (some 1) [true]).samples = List.replicate 1 true ++ []) ∧
  (Calm (core .active (some 2) [true, false, true, true]) ∧ (core .active (some 2) [true, false, true, true]).admits 1 ∧
    (core .active (some 2) [true, false, true, true]).samples =
      List.replicate 1 true ++ false :: (List.replicate 2 true ++ [])) ∧
  (Calm (core .active (some 3) [false, false, true, true, true]) ∧
    (core .active (some 3) [false, false, true, true, true]).admits 0 ∧
    (core .active (some 3) [false, false, true, true, true]).samples =
      List.replicate 0 true ++ false :: (List.replicate 0 true ++ false :: (List.replicate 3 true ++ [])))

theorem test_three_waits : ThreeWaits :=
  ⟨⟨core_calm _ (by decide) _, rfl, core_admits _ _ _, core_admits _ _ _⟩,
    ⟨core_calm _ (by decide) _, rfl, core_admits_below _ (by decide) _, rfl⟩,
    ⟨core_calm _ (by decide) _, core_admits_below _ (by decide) _, rfl⟩,
    core_calm _ (by decide) _, core_admits_below _ (by decide) _, rfl⟩

theorem test_witness_PrepareDisplayInitialisesThePanel : ThreeWaits := test_three_waits

theorem test_witness_DisplayPartialRefreshesWithTheTable :
    ThreeWaits ∧ (0x01 : Byte).getLsbD 0 = true ∧
    Calm (core .uninitialized none []) ∧ (core .uninitialized none []).macroState ≠ .active :=
  ⟨test_three_waits, by decide, core_calm _ (by decide) _, by decide⟩

theorem test_witness_PowerDownPutsThePanelToSleep :
    Calm (core .active none []) ∧ (core .active none []).macroState = .active ∧
    Calm (core .deepSleep none []) ∧ (core .deepSleep none []).macroState ≠ .active :=
  ⟨core_calm _ (by decide) _, rfl, core_calm _ (by decide) _, by decide⟩

theorem test_witness_AbsentImageIsReportedWithoutAnyEvent :
    Calm (core .active none []) ∧ (core .active none []).macroState = .active ∧ (0x00 : Byte).getLsbD 0 = false ∧
    (0xFE : Byte).getLsbD 0 = false ∧ Instr.displayPartial 0x00 ∈ [Instr.displayImage 0x00, .displayBase 0x00, .displayPartial 0x00] ∧
    Calm (core .deepSleep none []) ∧ (core .deepSleep none []).macroState ≠ .active :=
  ⟨core_calm _ (by decide) _, rfl, by decide, by decide, by decide, core_calm _ (by decide) _, by decide⟩

theorem test_witness_ReservedRequestIsIllegal :
    Calm (core .active none []) ∧
    (0x00 : Byte) ∉ ([0x01, 0x02, 0x03, 0x04, 0x05, 0x06, 0x07, 0x08, 0x10, 0x11, 0x12, 0x13, 0x14, 0x15] : List Byte) ∧
    (0x16 : Byte) ∉ ([0x01, 0x02, 0x03, 0x04, 0x05, 0x06, 0x07, 0x08, 0x10, 0x11, 0x12, 0x13, 0x14, 0x15] : List Byte) :=
  ⟨core_calm _ (by decide) _, by decide, by decide⟩

theorem test_witness_WireSymbolsAreSentAsFrames :
    (running [] none []).cfg.Legal ∧ (running [] none []).ready = false ∧ (running [] none []).moves = [] :=
  ⟨panel_legal (by decide), rfl, rfl⟩

theorem test_witness_WireSymbolsTouchOnlyTheTransport :
    ∃ s t : State, (Instr.dataFrame 0x00).isRequest = false ∧ exec (.dataFrame 0x00) s = .next t := ⟨running [] none [], _, rfl, rfl⟩

theorem test_witness_SequencesEmitOnlyPanelOpcodes :
    ∃ s t : State, s.ready = true ∧ Instr.powerDown.isRequest = true ∧ (∀ b, Instr.powerDown ≠ .sendCommand b) ∧
      exec .powerDown s = .next t ∧ .symbol 0x010 ∈ t.todo ∧ symbolLevel 0x010 = false :=
  ⟨core .active none [], _, rfl, rfl, fun _ h => (nomatch h), rfl, by simp [powerDownSequence, command, commandSymbol], rfl⟩

theorem test_witness_EmissionMatrix : (core .active none []).ready = true := rfl

theorem test_witness_StatusRegistersHaveTheirLayout :
    (core .active none []).cfg.Legal ∧ 4 < 5 ∧ 4 ≤ 4 ∧ ∃ s : State, s.rst = some true ∧ s.dc = some false :=
  ⟨panel_legal (by decide), by decide, by decide, { core .active none [] with rst := some true, dc := some false }, rfl, rfl⟩

/-- A finished operation of each kind. -/
theorem test_witness_CompletionIsOneStep :
    ∃ s : Byte → MacroState → State, ∀ code m, (s code m).cfg.Legal ∧ (s code m).ready = false ∧ (s code m).moves = [] ∧
      (s code m).todo = [] ∧ (s code m).op = code ∧ (s code m).macroState = m :=
  ⟨fun code m => { running [] none [] with op := code, macroState := m },
    fun _ _ => ⟨panel_legal (by decide), rfl, rfl, rfl, rfl, rfl⟩⟩

/-- A step that changes `MACRO` by completion, and one by core reset. -/
theorem test_witness_MacroStateChangesOnlyAtOkCompletion :
    (∃ s t : State, step s = .next t ∧ t.macroState ≠ s.macroState ∧ s.moves = []) ∧
    (∃ s t : State, step s = .next t ∧ t.macroState ≠ s.macroState ∧ s.moves = [.coreReset]) :=
  ⟨⟨{ running [] none [] with op := 0x15 }, _, if_pos (panel_legal (by decide)), by decide, rfl⟩,
    ⟨{ core .active none [] with moves := [.coreReset] }, _, if_pos (panel_legal (by decide)), by decide, rfl⟩⟩

theorem test_witness_ErrorFlagsAreSticky :
    ∃ s t : State, step s = .next t ∧ s.moves.head? ≠ some .coreReset :=
  ⟨{ running [.needImage] none [] with eflags := 0b0101 }, _, if_pos (panel_legal (by decide)), by decide⟩

theorem test_witness_AtMostOneEventAStep : ∃ s t : State, step s = .next t ∧ t.events = .rst true :: s.events :=
  ⟨running [.rst true] none [], _, if_pos (panel_legal (by decide)), rfl⟩

/-- A step with an event, one without, and the delay of the poll loop. -/
theorem test_witness_SequencerPositionFollowsTheEvents :
    (∃ s t : State, s.ready = false ∧ s.moves = [] ∧ step s = .next t ∧ t.trace = s.trace ++ [.rst true] ∧
      s.todo.head? ≠ some .pollDelay) ∧
    (∃ s t : State, s.ready = false ∧ s.moves = [] ∧ step s = .next t ∧ t.trace = s.trace) ∧
    (∃ s t : State, s.ready = false ∧ s.moves = [] ∧ step s = .next t ∧ s.todo.head? = some .pollDelay) :=
  ⟨⟨running [.rst true] none [], _, rfl, rfl, if_pos (panel_legal (by decide)), rfl, by decide⟩,
    ⟨running [.waitFree] none [], _, rfl, rfl, if_pos (panel_legal (by decide)), rfl⟩,
    ⟨running [.pollDelay] none [], _, rfl, rfl, if_pos (panel_legal (by decide)), rfl⟩⟩

theorem test_witness_OperationsWriteNoLatchOrMemory :
    ∃ s t : State, step s = .next t ∧ s.ready = false ∧ s.moves = [] :=
  ⟨running [.rst true] none [], _, if_pos (panel_legal (by decide)), rfl, rfl⟩

/-- The first and the last byte of the burst. -/
theorem test_witness_BurstReadsTheByteItSends :
    (∃ s : State, s.cfg.Legal ∧ s.ready = false ∧ s.moves = [] ∧ s.raced = [] ∧ s.row.toNat = 0 ∧ s.col.toNat < s.cfg.rowBytes ∧
      s.todo = .burstByte .framebuffer :: []) ∧
    (∃ s : State, s.cfg.Legal ∧ s.ready = false ∧ s.moves = [] ∧ s.raced = [] ∧ s.row.toNat + 1 = s.cfg.height ∧
      s.col.toNat < s.cfg.rowBytes ∧ s.todo = .burstByte .framebuffer :: []) :=
  ⟨⟨running [.burstByte .framebuffer] none [], panel_legal (by decide), rfl, rfl, rfl, rfl, by decide, rfl⟩,
    ⟨{ running [.burstByte .framebuffer] none [] with row := 7 }, panel_legal (by decide), rfl, rfl, rfl, rfl, by decide, rfl⟩⟩

/-- The three clauses, on a 16 by 8 panel: next column byte, next row, end. -/
theorem test_witness_BurstAdvancesRowByRow :
    (geometry 16 8 .portrait).Legal ∧
    ((0 : BitVec 9).toNat + 1 < (geometry 16 8 .portrait).rowBytes) ∧
    ((1 : BitVec 9).toNat + 1 = (geometry 16 8 .portrait).rowBytes ∧ (6 : BitVec 16).toNat + 1 < (geometry 16 8 .portrait).height) ∧
    ((1 : BitVec 9).toNat + 1 = (geometry 16 8 .portrait).rowBytes ∧ (7 : BitVec 16).toNat + 1 = (geometry 16 8 .portrait).height) ∧
    ∃ s : State, s.cfg = geometry 16 8 .portrait ∧ s.ready = false ∧ s.moves = [] ∧ s.row = 7 ∧ s.col = 1 ∧
      s.todo = .burstNext .framebuffer :: [.waitFree] :=
  ⟨⟨by decide, by decide, by decide, by decide, by decide, by decide, by decide⟩,
    by decide, by decide, by decide,
    { running [.burstNext .framebuffer, .waitFree] none [] with cfg := geometry 16 8 .portrait, row := 7, col := 1 },
    rfl, rfl, rfl, rfl, rfl, rfl⟩

/-- The last byte of the framebuffer at `READY = 1`, during an operation, and again during it; and the first address beyond it. -/
theorem test_witness_HostWriteIsReadBackOrRaces :
    (∃ s : State, s.cfg.Legal ∧ Memory.wf s.fb ∧ s.moves = .writeFb 7 0x11 :: [] ∧ 7 < s.cfg.bufLen ∧ s.raced = [] ∧
      s.ready = true) ∧
    (∃ s : State, s.cfg.Legal ∧ Memory.wf s.fb ∧ s.moves = .writeFb 7 0x11 :: [] ∧ 7 < s.cfg.bufLen ∧ s.raced = [] ∧
      s.ready = false) ∧
    (∃ s : State, s.cfg.Legal ∧ Memory.wf s.fb ∧ s.moves = .writeFb 7 0x11 :: [] ∧ 7 < s.cfg.bufLen ∧ s.ready = false ∧
      0x55 ∈ s.racedAt 7) ∧
    (∃ s : State, s.cfg.Legal ∧ Memory.wf s.fb ∧ s.moves = .writeFb 8 0x11 :: [] ∧ s.cfg.bufLen ≤ 8) :=
  ⟨⟨{ core .active none [] with moves := [.writeFb 7 0x11] }, panel_legal (by decide), by decide, rfl, by decide, rfl, rfl⟩,
    ⟨{ running [] none [] with moves := [.writeFb 7 0x11] }, panel_legal (by decide), by decide, rfl, by decide, rfl, rfl⟩,
    ⟨{ running [] none [] with moves := [.writeFb 7 0x11], raced := [(7, 0x55)] }, panel_legal (by decide), by decide, rfl, by decide,
      rfl, by decide⟩,
    ⟨{ core .active none [] with moves := [.writeFb 8 0x11] }, panel_legal (by decide), by decide, rfl, by decide⟩⟩

/-- The invariant in the middle of an operation, between frames. -/
theorem invariant_running (ms : List Micro) (limit : Option Nat) (samples : List Level) (h : limit ≠ some 0)
    (whole : ∀ m ∈ ms, m.isWhole = true) (plain : ∀ m ∈ ms, m.inBurst = false ∧ m.inPoll = false)
    (outside : todoPhase ms = .outside) (all : afterFrame ms = ms) : Invariant (running ms limit samples) where
  legal := panel_legal h
  fbWf := ⟨List.Pairwise.nil, fun _ hc => nomatch hc⟩
  fbInside := fun _ hc => nomatch hc
  idle := fun hr => nomatch hr
  races := fun _ => rfl
  flag3 := show (0 : BitVec 4).getLsbD 3 = false by decide
  result := fun hr => nomatch (show Completion.ok = .transportFailure from hr)
  sckLow := rfl
  framed := congrArg some outside.symm
  whole := fun m hm => whole m (all ▸ hm)
  select := by rw [show (running ms limit samples).todo = ms from rfl, outside]; rfl
  counters := fun ⟨m, hm, hb⟩ => nomatch (plain m hm).1.symm.trans hb
  polling := fun ⟨m, hm, hb⟩ => nomatch (plain m hm).2.symm.trans hb
  reads := fun _ _ hm => nomatch hm

theorem test_witness_EveryStepKeepsTheInvariant :
    ∃ s t : State, Invariant s ∧ step s = .next t ∧ t.events = [.rst true] :=
  ⟨running [.rst true] none [], _, invariant_running _ _ _ (by decide) (by decide) (by decide) rfl rfl,
    if_pos (panel_legal (by decide)), rfl⟩

theorem test_witness_NoFaultUnderTheInvariant :
    ∃ (s : State) (r : Fault), Invariant s ∧ step s = .fault r := by
  have i := invariant_running [] none [] (by decide) (by decide) (by decide) rfl rfl
  refine ⟨{ running [] none [] with moves := [.writeFb 8 0x11] }, .noSuchFramebufferByte 8,
    ⟨i.legal, i.fbWf, i.fbInside, i.idle, i.races, i.flag3, i.result, i.sckLow, i.framed, i.whole, i.select, i.counters, i.polling,
      i.reads⟩, ?_⟩
  exact if_pos (panel_legal (by decide))

theorem test_witness_EveryOperationCompletesUnderAPollLimit :
    Invariant (running [.waitFree, .burst .framebuffer] (some 3) []) ∧
    (running [.waitFree, .burst .framebuffer] (some 3) []).moves = [] ∧
    (running [.waitFree, .burst .framebuffer] (some 3) []).ready = false ∧
    (running [.waitFree, .burst .framebuffer] (some 3) []).cfg.pollLimit = some 3 :=
  ⟨invariant_running _ _ _ (by decide) (by decide) (by decide) rfl rfl, rfl, rfl, rfl⟩

end Sys2Proof.Tests
end

/-!
PROOFS. 00_scope.md: the derived parameters of a legal configuration (R7), and the check of the geometry, which no step
changes (R6, R32).
-/

namespace Sys2Proof.Machine

/-! ## The derived parameters (R7, R98) -/

section
variable {c : Config} (h : c.Legal)
include h

theorem rowBytes_mul_eight : c.rowBytes * 8 = c.width := by
  obtain ⟨hw, -⟩ := h
  exact Nat.div_mul_cancel (Nat.dvd_of_mod_eq_zero hw)

theorem bufLen_mul_eight : c.bufLen * 8 = c.width * c.height := by
  rw [bufLen_eq h, Nat.mul_assoc, rowBytes_mul_eight h, Nat.mul_comm]

theorem bufLen_le : c.bufLen ≤ 2 ^ 24 := by
  have ⟨_, _, _, _, _, hh, _⟩ := h
  calc c.bufLen = c.height * c.rowBytes := bufLen_eq h
    _ ≤ 65536 * 256 := Nat.mul_le_mul hh (rowBytes_le h).2
    _ = 2 ^ 24 := by norm_num

theorem lastX_toNat : c.lastX.toNat = c.width - 1 := by
  obtain ⟨-, -, -, hw, -⟩ := h
  exact (BitVec.toNat_ofNat _ _).trans (Nat.mod_eq_of_lt (by omega))

theorem lastY_toNat : c.lastY.toNat = c.height - 1 := by
  obtain ⟨-, -, -, -, hpos, hh, -⟩ := h
  exact (BitVec.toNat_ofNat _ _).trans (Nat.mod_eq_of_lt (by omega))

/-- The spec's example of R7: a panel of 128 by 296. -/
theorem rowBytes_bufLen_of_128_296 (hw : c.width = 128) (hh : c.height = 296) : c.rowBytes = 16 ∧ c.bufLen = 4736 := by
  have rows := rowBytes_mul_eight h
  have len := bufLen_mul_eight h
  rw [hw] at rows
  rw [hw, hh] at len
  omega

end

/-- Settles O7: `WIDTH` is a multiple of 8, so the divisions of R7 are exact; the bounds of R6 give the others. -/
theorem derivedConstantsAreExact : Obligations.DerivedConstantsAreExact := fun _ h =>
  ⟨rowBytes_mul_eight h, bufLen_mul_eight h, (bufLen_eq h).trans (Nat.mul_comm _ _), (rowBytes_le h).2, bufLen_le h,
    lastX_toNat h, lastY_toNat h, rowBytes_bufLen_of_128_296 h⟩

/-! ## No step writes the configuration (R32) -/

section
variable {s t : State}

theorem present_cfg {code : Byte} {o0 o1 o2 o3 : Option Half} {body : State → List Micro}
    (h : present code o0 o1 o2 o3 body s = .next t) : t.cfg = s.cfg := by
  cases hr : s.ready
  · rw [present_busy hr] at h
    cases h
    rfl
  · rw [present_ready hr] at h
    cases h
    rfl

theorem exec_cfg {i : Instr} (h : exec i s = .next t) : t.cfg = s.cfg := by
  cases hi : i.isRequest
  · obtain ⟨level, b, e⟩ := exec_wireSymbol hi
    rw [e] at h
    cases h
    rfl
  · obtain ⟨code, o0, o1, o2, o3, body, e⟩ := exec_isRequest hi
    exact present_cfg (e s ▸ h)

@[simp] theorem checkLegality_cfg (s : State) : (checkLegality s).cfg = s.cfg := by
  obtain ⟨-, e⟩ | ⟨-, e⟩ := checkLegality_cases s <;> rw [e]
  rfl

@[simp] theorem checkImage_cfg (s : State) : (checkImage s).cfg = s.cfg := by
  obtain ⟨-, e⟩ | ⟨-, e⟩ := checkImage_cases s <;> rw [e]
  rfl

@[simp] theorem pollOnce_cfg (s : State) : (pollOnce s).cfg = s.cfg := by
  obtain ⟨-, e⟩ | ⟨-, -, e⟩ | ⟨-, -, e⟩ := pollOnce_cases s <;> rw [e] <;> simp [State.sample]

@[simp] theorem advanceBurst_cfg (src : BurstSource) (s : State) : (advanceBurst src s).cfg = s.cfg := by
  obtain ⟨-, e⟩ | ⟨-, -, e⟩ | ⟨-, -, e⟩ := advanceBurst_cases src s <;> rw [e] <;> rfl

theorem burstBody_cfg {src : BurstSource} (h : burstBody src s = .next t) : t.cfg = s.cfg := by
  obtain ⟨_, -, e⟩ | ⟨-, -, e⟩ | ⟨-, -, e⟩ := burstBody_cases src s <;> rw [e] at h <;> cases h <;> rfl

theorem runMicro_cfg {m : Micro} (h : runMicro m s = .next t) : t.cfg = s.cfg := by
  cases m with
  | symbol w => exact exec_cfg h
  | burstByte src => exact burstBody_cfg h
  | legality => cases h; exact checkLegality_cfg s
  | needImage => cases h; exact checkImage_cfg s
  | poll => cases h; exact pollOnce_cfg s
  | burstNext src => cases h; exact advanceBurst_cfg src s
  | cs _ | spi _ | rst _ | delay _ | waitFree | pollDelay | burst _ => cases h; rfl

theorem Steps.cfg (h : Steps s t) : t.cfg = s.cfg := by
  cases h with
  | quiet _ h => rw [h]
  | accepted i rest _ _ h => exact (exec_cfg h).trans rfl
  | completed _ _ h => rw [h, State.complete_cfg]
  | micro m rest _ _ h => exact (runMicro_cfg h).trans rfl

theorem hostWriteFb_cfg {a : Nat} {v : Byte} (h : hostWriteFb a v s = .next t) : t.cfg = s.cfg := by
  unfold hostWriteFb at h
  split at h <;> cases h
  rfl

/-- R32: the configuration is no state, and neither the core nor a move of the host writes it. -/
theorem step_cfg (h : step s = .next t) : t.cfg = s.cfg := by
  obtain ⟨-, ⟨-, h⟩ | ⟨m, rest, -, ⟨-, h⟩ | ⟨-, -, h⟩ | ⟨a, v, -, h⟩ | ⟨-, h⟩⟩⟩ := step_next h
  · exact h.cfg
  · exact h.cfg
  · exact h ▸ rfl
  · exact (hostWriteFb_cfg h).trans rfl
  · exact h ▸ rfl

end

/-! ## The geometry (R6) -/

theorem step_refused_of_illegal {s : State} (h : ¬ s.cfg.Legal) : step s = .refused .illegalConfiguration := if_neg h

/-- A dimension not divisible by 8 or outside its bounds is not a configuration of this hardware. -/
theorem not_legal_of_geometry {c : Config}
    (bad : c.width % 8 ≠ 0 ∨ c.height % 8 ≠ 0 ∨ c.width < 8 ∨ 2048 < c.width ∨ c.height < 8 ∨ 65536 < c.height) :
    ¬ c.Legal := by
  rintro ⟨hw8, hh8, hw, hw', hh, hh', -⟩
  omega

theorem width_height_of_portrait {c : Config} (h : c.orient = .portrait) : c.width = c.w0 ∧ c.height = c.h0 := by
  simp [Config.width, Config.height, h]

theorem width_height_of_landscape {c : Config} (h : c.orient = .landscape) : c.width = c.h0 ∧ c.height = c.w0 := by
  simp [Config.width, Config.height, h]

/-- Settles O8: the step's own check refuses an illegal geometry, and the whole configuration is kept by every step. -/
theorem geometryIsCheckedAndOriented : Obligations.GeometryIsCheckedAndOriented :=
  ⟨fun _ => width_height_of_portrait, fun _ => width_height_of_landscape,
    fun _ bad => step_refused_of_illegal (not_legal_of_geometry bad),
    fun s t h => have e : t.cfg = s.cfg := step_cfg h; ⟨congrArg Config.width e, congrArg Config.height e⟩⟩

end Sys2Proof.Machine

/-!
PROOFS. 10_state.md: the reset values (R42), what a step runs next (R38, R39), acceptance (R38), completion (R40, R41), the status
registers (R31), the burst counters (R24), and what every step keeps. The last group rests on one inversion, `runMicro_next`: an
element of a micro-sequence makes at most one event and keeps everything `Keeps` names, or raises a completion after that.
-/

namespace Sys2Proof.Machine

/-! ## Reset (R42) -/

/-- Settles O9: each value is read off `State.afterReset`. -/
theorem resetLeavesTheStatedValues : Obligations.ResetLeavesTheStatedValues := by
  and_intros <;> rfl

/-- Core reset of every legal configuration leaves the idle core with an empty trace and an unwritten framebuffer, so each clause
of the invariant is about an empty list or a reset value. -/
theorem invariant_afterReset {c : Config} (h : c.Legal) (n : Nat) : Invariant (State.afterReset c n) where
  legal := h
  fbWf := ⟨List.Pairwise.nil, fun _ hc => nomatch hc⟩
  fbInside := fun _ hc => nomatch hc
  idle := fun _ => rfl
  races := fun _ => rfl
  flag3 := BitVec.getLsbD_zero
  result := fun hr => nomatch (show Completion.ok = .transportFailure from hr)
  sckLow := rfl
  framed := rfl
  whole := fun _ hm => nomatch hm
  select := rfl
  counters := fun ⟨_, hm, _⟩ => nomatch hm
  polling := fun ⟨_, hm, _⟩ => nomatch hm
  reads := fun _ _ hm => nomatch hm

theorem example128x296_legal : Config.example128x296.Legal := by
  have hw : Config.example128x296.width = 128 := rfl
  have hh : Config.example128x296.height = 296 := rfl
  rw [Config.Legal, hw, hh]
  exact ⟨rfl, rfl, by decide, by decide, by decide, by decide, nofun⟩

/-- Settles O51: the configuration of log entry 2 is legal. -/
theorem resetMeetsTheInvariant : Obligations.ResetMeetsTheInvariant :=
  invariant_afterReset example128x296_legal 0

/-! ## What a step runs next (R20, R38, R39) -/

section
variable {s : State}

theorem step_of_no_moves (hl : s.cfg.Legal) (hm : s.moves = []) : step s = coreStep s := by
  rw [step, if_pos hl, machineStep, hm]

theorem step_of_move (hl : s.cfg.Legal) {m : HostMove} {rest : List HostMove} (hm : s.moves = m :: rest) :
    step s = hostMove m (s.moved rest) := by
  rw [step, if_pos hl, machineStep, hm]
  rfl

theorem coreStep_ready (hr : s.ready = true) : coreStep s = acceptNext s := if_pos hr

theorem acceptNext_of_decoded {i : Instr} {rest : List Byte} (hd : decodeRequest s.port = .ok (i, rest)) :
    acceptNext s = exec i { s with port := rest } := by
  rw [acceptNext, hd]

theorem presentNow_of_decoded {bytes : List Byte} {i : Instr} (hd : decodeRequest bytes = .ok (i, [])) :
    presentNow bytes s = exec i s := by
  rw [presentNow, hd]

/-- An operation in progress runs the first of its remaining elements. -/
theorem Running.step_cons (run : Running s) {m : Micro} {rest : List Micro} (ht : s.todo = m :: rest) :
    Machine.step s = runMicro m (s.withTodo rest) := by
  rw [run.step, advance, ht]

/-- With none remaining it completes with `OK` (R40). -/
theorem Running.step_nil (run : Running s) (ht : s.todo = []) : Machine.step s = .next (s.complete .ok) := by
  rw [run.step, advance, ht]

end

/-- Settles O12: without a move the core steps, and at `READY = 1` it takes the decoded request. -/
theorem stepExecutesTheNextRequest : Obligations.StepExecutesTheNextRequest := fun s i rest hl hr hm hd =>
  calc step s = coreStep s := step_of_no_moves hl hm
    _ = acceptNext s := coreStep_ready hr
    _ = exec i { s with port := rest } := acceptNext_of_decoded hd

/-- Settles O13: a symbol element is executed as the instruction it decodes to. -/
theorem stepExecutesTheNextSymbol : Obligations.StepExecutesTheNextSymbol := fun _ _ _ hl hb hm ht =>
  Running.step_cons ⟨hl, hb, hm⟩ ht

/-! ## Acceptance (R38) -/

section
variable {s t : State} {i : Instr}

theorem exec_request_busy (hi : i.isRequest = true) (hb : s.ready = false) : exec i s = .next s := by
  obtain ⟨code, o0, o1, o2, o3, body, e⟩ := exec_isRequest hi
  rw [e, present_busy hb]

/-- What acceptance leaves, but for the micro-sequence it loads (R38, R22). -/
theorem exec_accepted (hr : s.ready = true) {code : Byte} {o0 o1 o2 o3 : Option Half} {body : State → List Micro}
    (h : exec i s = present code o0 o1 o2 o3 body s) :
    ∃ ms, exec i s =
      .next { s with
        ready := false, op := code, a0 := o0.getD s.a0, a1 := o1.getD s.a1, a2 := o2.getD s.a2, a3 := o3.getD s.a3,
        seqPc := 0, todo := ms } :=
  ⟨_, h.trans (present_ready hr code o0 o1 o2 o3 body)⟩

/-- A request that is presented is lost, or accepted with some code, operands and micro-sequence. -/
theorem exec_request_next (hi : i.isRequest = true) (h : exec i s = .next t) :
    (s.ready = false ∧ t = s) ∨
    (s.ready = true ∧ ∃ code o0 o1 o2 o3 ms, t = (s.accept code o0 o1 o2 o3).withTodo ms) := by
  cases hr : s.ready
  · rw [exec_request_busy hi hr] at h
    cases h
    exact .inl ⟨rfl, rfl⟩
  · obtain ⟨code, o0, o1, o2, o3, body, e⟩ := exec_isRequest hi
    rw [e, present_ready hr] at h
    cases h
    exact .inr ⟨rfl, code, o0, o1, o2, o3, _, rfl⟩

end

/-- Settles O14: the presented request is executed, and at `READY = 0` executing a request changes nothing. -/
theorem presentedRequestIsExecutedOrLost : Obligations.PresentedRequestIsExecutedOrLost := by
  intro s bytes i rest hl hm hd
  have presented : step s = exec i (s.moved rest) := (step_of_move hl hm).trans (presentNow_of_decoded hd)
  exact ⟨fun _ => presented, fun hb => presented.trans (exec_request_busy (decodeRequest_isRequest hd) hb)⟩

/-- Settles O15: each request is one `present` of its code and operands. -/
theorem acceptanceWritesTheLatches : Obligations.AcceptanceWritesTheLatches := by
  refine ⟨fun i s => exec_request_busy, fun s hr => ?_⟩
  exact
    ⟨fun b => exec_accepted hr (exec_sendCommand b s),
      fun b => exec_accepted hr (exec_sendData b s),
      exec_accepted hr (exec_reset s),
      exec_accepted hr (exec_waitFree s),
      fun xs ys xe ye => exec_accepted hr (exec_setWindow xs ys xe ye s),
      fun x y => exec_accepted hr (exec_setCursor x y s),
      exec_accepted hr (exec_sendLut s),
      fun p => exec_accepted hr (exec_on p s),
      exec_accepted hr (exec_prepareDisplay s),
      fun f => exec_accepted hr (exec_displayImage f s),
      fun f => exec_accepted hr (exec_displayBase f s),
      fun f => exec_accepted hr (exec_displayPartial f s),
      fun c => exec_accepted hr (exec_clear c s),
      exec_accepted hr (exec_powerDown s),
      fun code => exec_accepted hr (exec_reservedRequest code s)⟩

/-- Settles O16: a lost request keeps the whole state, an accepted one all but `READY`, `OP`, the latches and the sequencer. -/
theorem requestsChangeNoPinStatusOrMemory : Obligations.RequestsChangeNoPinStatusOrMemory := by
  intro i s t hi h
  obtain ⟨hb, rfl⟩ | ⟨-, code, o0, o1, o2, o3, ms, rfl⟩ := exec_request_next hi h
  · simp [hb]
  · simp

/-! ## Completion (R40, R41) -/

section
variable {code : Byte} {m : MacroState}

theorem nextMacroState_prepareDisplay : nextMacroState 0x10 m = .active := rfl

theorem nextMacroState_reset :
    nextMacroState 0x03 m = if m = .uninitialized then .uninitialized else .active := by
  cases m <;> rfl

theorem nextMacroState_powerDown : nextMacroState 0x15 m = .deepSleep := rfl

/-- The operations that leave `MACRO` as it is. -/
theorem nextMacroState_of_ne (hp : code ≠ 0x10) (hr : code ≠ 0x03) (hd : code ≠ 0x15) : nextMacroState code m = m := by
  unfold nextMacroState
  rw [if_neg hp, if_neg hr, if_neg hd]

/-- Only three operations change `MACRO`, `RESET` only to `Active`. -/
theorem nextMacroState_ne (h : nextMacroState code m ≠ m) :
    (nextMacroState code m = .active ∧ (code = 0x10 ∨ code = 0x03)) ∨ (nextMacroState code m = .deepSleep ∧ code = 0x15) := by
  by_cases hp : code = 0x10
  · subst hp
    exact .inl ⟨rfl, .inl rfl⟩
  by_cases hr : code = 0x03
  · subst hr
    cases m with
    | uninitialized => exact absurd rfl h
    | active | deepSleep => exact .inl ⟨rfl, .inr rfl⟩
  by_cases hd : code = 0x15
  · subst hd
    exact .inr ⟨rfl, rfl⟩
  exact absurd (nextMacroState_of_ne hp hr hd) h

end

/-- What `OK` completion reports (R40). -/
theorem State.complete_ok_reports (s : State) :
    Reports s (s.complete .ok) .ok (nextMacroState s.op s.macroState) 0b0000 [] s.samples where
  ready := rfl
  result := rfl
  macroState := rfl
  eflags := rfl
  trace := (List.append_nil _).symm
  samples := rfl
  fb := rfl
  cfg := rfl
  port := rfl

/-- Settles O42: the step is `State.complete .ok`, and the clauses on `MACRO` are the rows of `nextMacroState`. -/
theorem completionIsOneStep : Obligations.CompletionIsOneStep := by
  intro s hl hb hm ht
  have macroState : (s.complete .ok).macroState = nextMacroState s.op s.macroState := rfl
  refine ⟨s.complete .ok, Running.step_nil ⟨hl, hb, hm⟩ ht, s.complete_ok_reports, ⟨rfl, rfl, rfl⟩, rfl, rfl, rfl, rfl, rfl, ?_⟩
  rw [macroState]
  refine ⟨fun hop => ?_, fun hop => ?_, fun hop => ?_, fun hop _ => ?_, fun hop ha => ?_⟩
  · rw [hop, nextMacroState_prepareDisplay]
  · rw [hop, nextMacroState_reset]
  · rw [hop]
    exact nextMacroState_of_ne (by decide) (by decide) (by decide)
  · rw [hop, nextMacroState_powerDown]
  · have others : ∀ code ∈ ([0x01, 0x02, 0x05, 0x06, 0x07, 0x08, 0x11, 0x12, 0x13, 0x14] : List Byte),
        code ≠ 0x10 ∧ code ≠ 0x03 ∧ code ≠ 0x15 := by decide
    obtain ⟨hp, hr, hd⟩ := others s.op hop
    rw [nextMacroState_of_ne hp hr hd, ha]

/-! ## The status registers (R31) -/

section
variable (s : State)

theorem toNat_append_eq_add {m n : Nat} (x : BitVec m) (y : BitVec n) : (x ++ y).toNat = x.toNat * 2 ^ n + y.toNat := by
  rw [BitVec.toNat_append, ← Nat.shiftLeft_add_eq_or_of_lt y.isLt, Nat.shiftLeft_eq]

theorem MacroState.code_toNat (m : MacroState) :
    m.code.toNat = if m = .uninitialized then 0 else if m = .active then 1 else 2 := by
  cases m <;> rfl

theorem Completion.code_toNat (k : Completion) :
    k.code.toNat = if k = .ok then 0 else if k = .missingImage then 1 else if k = .syncTimeout then 2
      else if k = .illegalRequest then 3 else 4 := by
  cases k <;> rfl

theorem State.statusRegister_toNat :
    s.statusRegister.toNat = s.ready.toNat + 2 * s.macroState.code.toNat + 8 * s.result.code.toNat := by
  simp only [State.statusRegister, toNat_append_eq_add, BitVec.toNat_ofBool, BitVec.ofNat_eq_ofNat, BitVec.toNat_ofNat]
  omega

theorem State.eflagsRegister_toNat : s.eflagsRegister.toNat = s.eflags.toNat % 8 := by
  have small : s.eflags.toNat < 16 := s.eflags.isLt
  rw [State.eflagsRegister, BitVec.toNat_and, BitVec.toNat_setWidth, Nat.mod_eq_of_lt (by omega)]
  exact Nat.and_two_pow_sub_one_eq_mod _ 3

/-- The register in the host's 16 bits has the same value. -/
theorem toNat_zeroExtend (r : BitVec 8) : (r.setWidth 16).toNat = r.toNat :=
  BitVec.toNat_setWidth_of_le (by decide)

/-- The bits of `PINS`, low to high, as the host reads them. -/
theorem State.pinsRegister_bits :
    (s.pinsRegister.setWidth 16).getLsbD 0 = s.shownLevel 0 s.rst ∧ (s.pinsRegister.setWidth 16).getLsbD 1 = s.cs ∧
    (s.pinsRegister.setWidth 16).getLsbD 2 = s.shownLevel 2 s.dc ∧ (s.pinsRegister.setWidth 16).getLsbD 3 = s.lastBusy ∧
    ∀ k, 4 ≤ k → (s.pinsRegister.setWidth 16).getLsbD k = false := by
  simp only [State.pinsRegister, BitVec.getLsbD_setWidth, BitVec.getLsbD_append]
  refine ⟨by simp, by simp, by simp, by simp, fun k hk => ?_⟩
  simp [show ¬ k < 1 by omega, show ¬ k - 1 < 1 by omega, show ¬ k - 1 - 1 < 1 by omega, show ¬ k - 1 - 1 - 1 < 1 by omega]

end

/-- Settles O41: a lemma for each register; a latch that holds a value is shown as it is. -/
theorem statusRegistersHaveTheirLayout : Obligations.StatusRegistersHaveTheirLayout := by
  intro s
  obtain ⟨rst, cs, dc, busy, high⟩ := s.pinsRegister_bits
  refine ⟨⟨_, rfl, ?_⟩, ⟨_, rfl, ?_⟩, ⟨_, rfl, fun l hl => ?_, cs, fun l hl => ?_, busy, high⟩, fun legal => ?_, fun n hn => ?_⟩
  · rw [toNat_zeroExtend, s.statusRegister_toNat, MacroState.code_toNat, Completion.code_toNat]
  · rw [toNat_zeroExtend, s.eflagsRegister_toNat]
  · rw [rst, hl, State.shownLevel_some]
  · rw [dc, hl, State.shownLevel_some]
  · have ⟨_, _, hw, _, hh, _⟩ := legal
    refine ⟨s.cfg.lastX, s.cfg.lastY, rfl, rfl, ?_, ?_⟩
    · rw [lastX_toNat legal]
      omega
    · rw [lastY_toNat legal]
      omega
  · obtain ⟨k, rfl⟩ : ∃ k, n = k + 5 := ⟨n - 5, by omega⟩
    rfl

/-! ## The burst counters (R24, R150) -/

section
variable {s : State} (src : BurstSource) (hl : s.cfg.Legal)

theorem advanceBurst_trace : (advanceBurst src s).trace = s.trace := by
  obtain ⟨-, e⟩ | ⟨-, -, e⟩ | ⟨-, -, e⟩ := advanceBurst_cases src s <;> rw [e] <;> rfl

theorem advanceBurst_end (hc : s.col.toNat + 1 = s.cfg.rowBytes) (hr : s.row.toNat + 1 = s.cfg.height) :
    advanceBurst src s = s := by
  rw [advanceBurst, if_neg hc.not_lt, if_neg hr.not_lt]

include hl

/-- `COL` has 9 bits and a row at most 256 column bytes, so the sum does not wrap. -/
theorem advanceBurst_column (hc : s.col.toNat + 1 < s.cfg.rowBytes) :
    (advanceBurst src s).row = s.row ∧ (advanceBurst src s).col.toNat = s.col.toNat + 1 ∧
    (advanceBurst src s).todo = .burstByte src :: s.todo := by
  have rows := (rowBytes_le hl).2
  rw [advanceBurst, if_pos hc]
  exact ⟨rfl, BitVec.toNat_add_of_lt (show s.col.toNat + 1 < 512 by omega), rfl⟩

/-- `ROW` has 16 bits and the panel at most 65536 rows, so the sum does not wrap. -/
theorem advanceBurst_row (hc : s.col.toNat + 1 = s.cfg.rowBytes) (hr : s.row.toNat + 1 < s.cfg.height) :
    (advanceBurst src s).row.toNat = s.row.toNat + 1 ∧ (advanceBurst src s).col = 0 ∧
    (advanceBurst src s).todo = .burstByte src :: s.todo := by
  obtain ⟨-, -, -, -, -, height, -⟩ := hl
  rw [advanceBurst, if_neg hc.not_lt, if_pos hr]
  exact ⟨BitVec.toNat_add_of_lt (show s.row.toNat + 1 < 65536 by omega), rfl, rfl⟩

end

/-- Settles O49: the step is `advanceBurst`, with a lemma for each of its three ways on. -/
theorem burstAdvancesRowByRow : Obligations.BurstAdvancesRowByRow := fun s src rest hl hb hm _ _ ht =>
  ⟨advanceBurst src (s.withTodo rest), Running.step_cons ⟨hl, hb, hm⟩ ht, advanceBurst_trace src,
    advanceBurst_column (s := s.withTodo rest) src hl, advanceBurst_row (s := s.withTodo rest) src hl,
    fun hc hr => congrArg State.todo (advanceBurst_end (s := s.withTodo rest) src hc hr)⟩

/-! ## What an element of a micro-sequence can do (R23, R39) -/

/-- What an element does to the trace and `SEQ_PC` together: nothing, or it makes one event and advances by one, or it is the delay
of the poll loop, one event that takes `SEQ_PC` back by one. -/
inductive Advances (m : Micro) (s t : State) : Prop where
  | silent (other : m ≠ .pollDelay) (events : t.events = s.events) (seqPc : t.seqPc = s.seqPc)
  | emits (other : m ≠ .pollDelay) (e : Event) (events : t.events = e :: s.events) (seqPc : t.seqPc = s.seqPc + 1)
  | repeats (delay : m = .pollDelay) (e : Event) (events : t.events = e :: s.events) (seqPc : t.seqPc = s.seqPc - 1)

theorem Advances.events {m : Micro} {s t : State} (h : Advances m s t) :
    t.events = s.events ∨ ∃ e, t.events = e :: s.events := by
  cases h with
  | silent _ events _ => exact .inl events
  | emits _ e events _ | repeats _ e events _ => exact .inr ⟨e, events⟩

/-- An element goes on without ending the operation. -/
structure GoesOn (m : Micro) (s t : State) : Prop where
  keeps : Keeps s t
  advances : Advances m s t

/-- An element goes on, or ends the operation with an exception's code after that (R198). -/
def RunsTo (m : Micro) (s t : State) : Prop :=
  GoesOn m s t ∨ ∃ u k, GoesOn m s u ∧ k ≠ .ok ∧ t = u.complete k

section
variable {s t : State}

theorem goesOn_refl {m : Micro} (other : m ≠ .pollDelay) : GoesOn m s s := ⟨.refl s, .silent other rfl rfl⟩

theorem checkLegality_runsTo : RunsTo .legality s (checkLegality s) := by
  have passes : GoesOn .legality s s := goesOn_refl nofun
  obtain ⟨-, e⟩ | ⟨-, e⟩ := checkLegality_cases s <;> rw [e]
  · exact .inl passes
  · exact .inr ⟨s, .illegalRequest, passes, nofun, rfl⟩

theorem checkImage_runsTo : RunsTo .needImage s (checkImage s) := by
  have passes : GoesOn .needImage s s := goesOn_refl nofun
  obtain ⟨-, e⟩ | ⟨-, e⟩ := checkImage_cases s <;> rw [e]
  · exact .inl passes
  · exact .inr ⟨s, .missingImage, passes, nofun, rfl⟩

/-- A sample is one event, whatever becomes of `POLLS` and of what remains to do. -/
theorem goesOn_sample (polls : Nat) (ms : List Micro) :
    GoesOn .poll s ({ s.sample with polls := polls, todo := ms } : State) :=
  ⟨by constructor <;> simp [State.sample], .emits nofun (.busy s.nextLevel) (by simp [State.sample]) (by simp [State.sample])⟩

theorem pollOnce_runsTo : RunsTo .poll s (pollOnce s) := by
  obtain ⟨-, e⟩ | ⟨-, -, e⟩ | ⟨-, -, e⟩ := pollOnce_cases s <;> rw [e]
  · exact .inl (goesOn_sample s.sample.polls s.sample.todo)
  · exact .inr ⟨_, .syncTimeout, goesOn_sample (s.polls + 1) s.sample.todo, nofun, rfl⟩
  · exact .inl (goesOn_sample (s.polls + 1) (.pollDelay :: s.sample.todo))

theorem burstBody_goesOn {src : BurstSource} (h : burstBody src s = .next t) : GoesOn (.burstByte src) s t := by
  obtain ⟨c, -, e⟩ | ⟨-, -, e⟩ | ⟨-, -, e⟩ := burstBody_cases src s <;> rw [e] at h <;> cases h
  · exact ⟨by constructor <;> rfl, .silent nofun rfl rfl⟩
  · exact ⟨by constructor <;> rfl, .emits nofun (.fbRead _ _) rfl rfl⟩

theorem advanceBurst_goesOn {src : BurstSource} : GoesOn (.burstNext src) s (advanceBurst src s) := by
  obtain ⟨-, e⟩ | ⟨-, -, e⟩ | ⟨-, -, e⟩ := advanceBurst_cases src s <;> rw [e]
  · exact ⟨by constructor <;> rfl, .silent nofun rfl rfl⟩
  · exact ⟨by constructor <;> rfl, .silent nofun rfl rfl⟩
  · exact goesOn_refl nofun

/-- What one element of a micro-sequence does, in every case. -/
theorem runMicro_next {m : Micro} (h : runMicro m s = .next t) : RunsTo m s t := by
  cases m with
  | legality => cases h; exact checkLegality_runsTo
  | needImage => cases h; exact checkImage_runsTo
  | poll => cases h; exact pollOnce_runsTo
  | burstByte src => exact .inl (burstBody_goesOn h)
  | burstNext src => cases h; exact .inl advanceBurst_goesOn
  | symbol w =>
    rw [runMicro, exec_decodeSymbol] at h
    cases h
    exact .inl ⟨by constructor <;> rfl, .emits nofun (.dc _) rfl rfl⟩
  | cs _ | spi _ | rst _ | delay _ => cases h; exact .inl ⟨.emit _ s, .emits nofun _ rfl rfl⟩
  | waitFree | burst _ => cases h; exact .inl ⟨by constructor <;> rfl, .silent nofun rfl rfl⟩
  | pollDelay =>
    cases h
    exact .inl ⟨by constructor <;> rfl, .repeats rfl (.delay pollMs) rfl (by simp [delayAndRepeat])⟩

/-! ## What a step of the core keeps -/

/-- Completion moves neither the trace nor `SEQ_PC`. -/
theorem Advances.complete {m : Micro} (h : Advances m s t) (k : Completion) : Advances m s (t.complete k) := by
  cases h with
  | silent other events seqPc => exact .silent other events seqPc
  | emits other e events seqPc => exact .emits other e events seqPc
  | repeats delay e events seqPc => exact .repeats delay e events seqPc

theorem RunsTo.advances {m : Micro} (h : RunsTo m s t) : Advances m s t := by
  obtain goesOn | ⟨u, k, goesOn, -, rfl⟩ := h
  · exact goesOn.advances
  · exact goesOn.advances.complete k

/-- Until it completes, an operation keeps what `Keeps` names; completion with any code keeps the latches, `OP` and memory. -/
theorem Steps.busy (h : Steps s t) (hb : s.ready = false) : Keeps s t ∨ ∃ u k, Keeps s u ∧ t = u.complete k := by
  cases h with
  | quiet hr _ | accepted _ _ hr _ _ => cases hb.symm.trans hr
  | completed _ _ h => exact .inr ⟨s, .ok, .refl s, h⟩
  | micro m rest _ _ h =>
    have start : Keeps s (s.withTodo rest) := by constructor <;> rfl
    obtain h | ⟨u, k, h, -, e⟩ := runMicro_next h
    · exact .inl (start.trans h.keeps)
    · exact .inr ⟨u, k, start.trans h.keeps, e⟩

theorem Steps.latches (h : Steps s t) (hb : s.ready = false) :
    t.a0 = s.a0 ∧ t.a1 = s.a1 ∧ t.a2 = s.a2 ∧ t.a3 = s.a3 ∧ t.op = s.op := by
  obtain keeps | ⟨u, k, keeps, rfl⟩ := h.busy hb <;> exact ⟨keeps.a0, keeps.a1, keeps.a2, keeps.a3, keeps.op⟩

/-- At `READY = 1` a step of the core does nothing, or accepts a request from the port. -/
theorem Steps.ready (h : Steps s t) (hr : s.ready = true) :
    t = s ∨ ∃ rest code o0 o1 o2 o3 ms, t = (({ s with port := rest } : State).accept code o0 o1 o2 o3).withTodo ms := by
  cases h with
  | quiet _ h => exact .inl h
  | accepted i rest _ hi h =>
    obtain ⟨hb, -⟩ | ⟨-, accepted⟩ := exec_request_next hi h
    · cases hb.symm.trans hr
    · exact .inr ⟨rest, accepted⟩
  | completed hb _ _ | micro _ _ hb _ _ => cases hb.symm.trans hr

theorem Steps.fb (h : Steps s t) : t.fb = s.fb := by
  cases hr : s.ready
  · obtain keeps | ⟨u, k, keeps, rfl⟩ := h.busy hr <;> exact keeps.fb
  · obtain rfl | ⟨rest, code, o0, o1, o2, o3, ms, rfl⟩ := h.ready hr <;> rfl

/-- A step of the core changes `EFLAGS` only by the flag of a completion. -/
theorem Steps.eflags (h : Steps s t) : t.eflags = s.eflags ∨ ∃ k : Completion, t.eflags = s.eflags ||| k.flag := by
  cases hr : s.ready
  · obtain keeps | ⟨u, k, keeps, rfl⟩ := h.busy hr
    · exact .inl keeps.eflags
    · exact .inr ⟨k, by rw [State.complete_eflags, keeps.eflags]⟩
  · obtain rfl | ⟨rest, code, o0, o1, o2, o3, ms, rfl⟩ := h.ready hr <;> exact .inl rfl

theorem Steps.events (h : Steps s t) : t.events = s.events ∨ ∃ e, t.events = e :: s.events := by
  cases h with
  | quiet _ h | completed _ _ h => exact .inl (h ▸ rfl)
  | accepted i rest hr hi h =>
    obtain ⟨-, rfl⟩ | ⟨-, code, o0, o1, o2, o3, ms, rfl⟩ := exec_request_next hi h <;> exact .inl rfl
  | micro m rest _ _ h => exact (runMicro_next h).advances.events

/-- A step of the core that changes `MACRO` is the completion with `OK`: an exception completes with another code (R40). -/
theorem Steps.macroState (h : Steps s t) (changed : t.macroState ≠ s.macroState) :
    s.ready = false ∧ s.todo = [] ∧ t = s.complete .ok := by
  cases h with
  | quiet _ h => exact absurd (h ▸ rfl) changed
  | accepted i rest hr hi h =>
    obtain ⟨-, rfl⟩ | ⟨-, code, o0, o1, o2, o3, ms, rfl⟩ := exec_request_next hi h <;> exact absurd rfl changed
  | completed hb ht h => exact ⟨hb, ht, h⟩
  | micro m rest _ _ h =>
    obtain goesOn | ⟨u, k, goesOn, hk, rfl⟩ := runMicro_next h
    · exact absurd goesOn.keeps.macroState changed
    · rw [State.complete_macroState, if_neg hk] at changed
      exact absurd goesOn.keeps.macroState changed

/-! ## Whole steps -/

/-- A step in the form an invariant is read off: with the host's move, if any, taken off the list, the core steps, or nothing
happens, or the host writes a framebuffer byte, or the core is reset. -/
theorem step_moved (h : step s = .next t) :
    ∃ rest, Steps (s.moved rest) t ∨ t = s.moved rest ∨
      (∃ a v, s.moves.head? = some (.writeFb a v) ∧ hostWriteFb a v (s.moved rest) = .next t) ∨
      (s.moves.head? = some .coreReset ∧ t = (s.moved rest).coreReset) := by
  obtain ⟨-, ⟨-, h⟩ | ⟨m, rest, hm, ⟨-, h⟩ | ⟨-, -, h⟩ | ⟨a, v, rfl, h⟩ | ⟨rfl, h⟩⟩⟩ := step_next h
  · exact ⟨s.moves, .inl h⟩
  · exact ⟨rest, .inl h⟩
  · exact ⟨rest, .inr (.inl h)⟩
  · exact ⟨rest, .inr (.inr (.inl ⟨a, v, congrArg List.head? hm, h⟩))⟩
  · exact ⟨rest, .inr (.inr (.inr ⟨congrArg List.head? hm, h⟩))⟩

/-- What the host's write of a framebuffer byte leaves: all but the framebuffer and the record of races (R68). -/
theorem hostWriteFb_next {a : Nat} {v : Byte} (h : hostWriteFb a v s = .next t) :
    ∃ fb raced, t = { s with fb := fb, raced := raced } := by
  unfold hostWriteFb at h
  split at h <;> cases h
  exact ⟨_, _, rfl⟩

/-- Within an operation nothing but core reset changes a latch or `OP` (R22). -/
theorem step_latches (h : step s = .next t) (hb : s.ready = false) (noReset : s.moves.head? ≠ some .coreReset) :
    t.a0 = s.a0 ∧ t.a1 = s.a1 ∧ t.a2 = s.a2 ∧ t.a3 = s.a3 ∧ t.op = s.op := by
  obtain ⟨rest, h | rfl | ⟨a, v, -, h⟩ | ⟨hm, -⟩⟩ := step_moved h
  · exact h.latches hb
  · exact ⟨rfl, rfl, rfl, rfl, rfl⟩
  · obtain ⟨fb, raced, rfl⟩ := hostWriteFb_next h
    exact ⟨rfl, rfl, rfl, rfl, rfl⟩
  · exact absurd hm noReset

/-- Nothing but the host's write changes the framebuffer (R35). -/
theorem step_fb (h : step s = .next t) (noWrite : ∀ a v, s.moves.head? ≠ some (.writeFb a v)) : t.fb = s.fb := by
  obtain ⟨rest, h | rfl | ⟨a, v, hm, -⟩ | ⟨-, rfl⟩⟩ := step_moved h
  · exact h.fb
  · rfl
  · exact absurd hm (noWrite a v)
  · rfl

theorem trace_of_events_eq (h : t.events = s.events) : t.trace = s.trace := congrArg List.reverse h

theorem trace_of_events_cons {e : Event} (h : t.events = e :: s.events) : t.trace = s.trace ++ [e] := by
  rw [State.trace, h, List.reverse_cons, State.trace]

/-- No completion sets bit 3 (R30, R194). -/
theorem Completion.flag_bit3 (k : Completion) : k.flag.getLsbD 3 = false := by cases k <;> rfl

theorem and_or_absorb {n : Nat} (x y : BitVec n) : x &&& (x ||| y) = x := by
  ext i hi
  rw [BitVec.getElem_and, BitVec.getElem_or]
  exact inf_sup_self

end

/-- Settles O43: in a step of the core `MACRO` changes by the completion with `OK` alone, whose table is `nextMacroState`; of the
host's moves, core reset alone touches it. -/
theorem macroStateChangesOnlyAtOkCompletion : Obligations.MacroStateChangesOnlyAtOkCompletion := by
  intro s t h changed
  obtain ⟨rest, h | rfl | ⟨a, v, -, h⟩ | ⟨hm, rfl⟩⟩ := step_moved h
  · obtain ⟨hb, ht, rfl⟩ := h.macroState changed
    exact .inl ⟨hb, ht, rfl, rfl, nextMacroState_ne changed⟩
  · exact absurd rfl changed
  · obtain ⟨fb, raced, rfl⟩ := hostWriteFb_next h
    exact absurd rfl changed
  · exact .inr ⟨hm, rfl⟩

/-- Settles O44: `EFLAGS` stays or is or-ed with the flag of a completion, which has no bit 3. -/
theorem errorFlagsAreSticky : Obligations.ErrorFlagsAreSticky := by
  intro s t h noReset
  have grows : t.eflags = s.eflags ∨ ∃ k : Completion, t.eflags = s.eflags ||| k.flag := by
    obtain ⟨rest, h | rfl | ⟨a, v, -, h⟩ | ⟨hm, -⟩⟩ := step_moved h
    · exact h.eflags
    · exact .inl rfl
    · obtain ⟨fb, raced, rfl⟩ := hostWriteFb_next h
      exact .inl rfl
    · exact absurd hm noReset
  obtain e | ⟨k, e⟩ := grows <;> rw [e]
  · exact ⟨BitVec.and_self, rfl⟩
  · exact ⟨and_or_absorb _ _, by rw [BitVec.getLsbD_or, k.flag_bit3, Bool.or_false]⟩

/-- Settles O45: a step of the core adds at most one event, and of the host's moves core reset alone touches the trace. -/
theorem atMostOneEventAStep : Obligations.AtMostOneEventAStep := by
  intro s t h
  obtain ⟨rest, h | rfl | ⟨a, v, -, h⟩ | ⟨hm, rfl⟩⟩ := step_moved h
  · exact h.events.imp trace_of_events_eq fun ⟨e, he⟩ => .inl ⟨e, trace_of_events_cons he⟩
  · exact .inl rfl
  · obtain ⟨fb, raced, rfl⟩ := hostWriteFb_next h
    exact .inl rfl
  · exact .inr (.inr ⟨hm, rfl⟩)

/-- Settles O46: without a move, an operation in progress completes, which moves nothing, or runs an element, and `Advances` says
what that does. -/
theorem sequencerPositionFollowsTheEvents : Obligations.SequencerPositionFollowsTheEvents := by
  intro s t hb hm h
  obtain ⟨-, ⟨-, h⟩ | ⟨m, rest, hm', -⟩⟩ := step_next h
  case inr => cases hm.symm.trans hm'
  have noEvent {e : Event} (ht : t.trace = s.trace) : t.trace ≠ s.trace ++ [e] := by simp [ht]
  cases h with
  | quiet hr _ | accepted _ _ hr _ _ => cases hb.symm.trans hr
  | completed _ ht done =>
    have silent : t.trace = s.trace := done ▸ rfl
    refine ⟨fun _ => done ▸ rfl, fun e he => absurd he (noEvent silent), fun delay => ?_⟩
    rw [ht] at delay
    cases delay
  | micro m rest _ ht h =>
    rw [ht, List.head?_cons, Option.some_inj]
    cases (runMicro_next h).advances with
    | silent other events seqPc =>
      have silent := trace_of_events_eq events
      exact ⟨fun _ => seqPc, fun e he => absurd he (noEvent silent), fun delay => absurd delay other⟩
    | emits other e events seqPc =>
      have emits := trace_of_events_cons events
      exact ⟨fun silent => absurd emits (noEvent silent), fun _ _ _ => seqPc, fun delay => absurd delay other⟩
    | repeats delay e events seqPc =>
      have emits := trace_of_events_cons events
      exact ⟨fun silent => absurd emits (noEvent silent), fun _ _ other => absurd (congrArg some delay) other, fun _ => seqPc⟩

/-- Settles O47: `step_cfg`, `step_latches` and `step_fb`. -/
theorem operationsWriteNoLatchOrMemory : Obligations.OperationsWriteNoLatchOrMemory := fun _ _ h =>
  ⟨step_cfg h, step_latches h, fun noWrite a => congrArg (Memory.read · a) (step_fb h noWrite)⟩

end Sys2Proof.Machine

/-!
PROOFS. 20_memory.md: a burst's read of the framebuffer (R61, R62, R64), the host's write and its race with an operation (R68, R69),
and that the core itself reads no address outside `BUF_LEN` (R72, R74).
-/

namespace Sys2Proof.Machine

/-! ## The address of a burst (R61) -/

/-- `ROW` below `HEIGHT` and `COL` below `ROW_BYTES` address a byte of the framebuffer. -/
theorem fbAddress_lt {c : Config} {row : BitVec 16} {col : BitVec 9} (hl : c.Legal) (hrow : row.toNat < c.height)
    (hcol : col.toNat < c.rowBytes) : fbAddress c row col < c.bufLen :=
  calc fbAddress c row col < c.rowBytes + row.toNat * c.rowBytes := Nat.add_lt_add_right hcol _
    _ = (row.toNat + 1) * c.rowBytes := by rw [Nat.succ_mul, Nat.add_comm]
    _ ≤ c.height * c.rowBytes := Nat.mul_le_mul_right _ hrow
    _ = c.bufLen := (bufLen_eq hl).symm

/-! ## What a framebuffer read yields (R62, R68) -/

section
variable {s t : State} {a : Nat}

theorem State.racedAt_of_not_raced (h : s.raced = []) : s.racedAt a = [] := by
  rw [State.racedAt, h, List.filter_nil, List.map_nil]

/-- Where no write has raced, a read yields the byte held. -/
theorem State.fbValue_of_not_raced (h : s.raced = []) : s.fbValue a = Memory.read s.fb a := by
  rw [State.fbValue, State.racedAt_of_not_raced h]

/-- A read depends on the byte held, the bytes replaced and the next free value only. -/
theorem State.fbValue_congr (held : Memory.read t.fb a = Memory.read s.fb a) (raced : t.racedAt a = s.racedAt a)
    (draws : t.draws = s.draws) : t.fbValue a = s.fbValue a := by
  rw [State.fbValue, State.fbValue, held, raced, draws]

theorem State.trace_readFb : (s.readFb a).trace = s.trace ++ [.fbRead a (s.fbValue a)] :=
  State.trace_emit s (.fbRead a (s.fbValue a))

end

/-! ## One turn of a burst (R150) -/

theorem burstBody_framebuffer {s : State} (h : fbAddress s.cfg s.row s.col < s.cfg.bufLen) :
    burstBody .framebuffer s = .next ((s.readFb (fbAddress s.cfg s.row s.col)).prepend
      [data (s.fbValue (fbAddress s.cfg s.row s.col)), .burstNext .framebuffer]) :=
  if_pos h

/-- Settles O48: the counters address a framebuffer byte, and without a race the byte logged and sent is the one held there. -/
theorem burstReadsTheByteItSends : Obligations.BurstReadsTheByteItSends := by
  intro s rest hl hb hm hr hrow hcol ht
  have inside : fbAddress s.cfg s.row s.col < s.cfg.bufLen := fbAddress_lt hl hrow hcol
  have held : (s.withTodo rest).fbValue (fbAddress s.cfg s.row s.col) = Memory.read s.fb (fbAddress s.cfg s.row s.col) :=
    State.fbValue_of_not_raced (s := s.withTodo rest) hr
  have run : step s = burstBody .framebuffer (s.withTodo rest) := Running.step_cons ⟨hl, hb, hm⟩ ht
  refine ⟨_, run.trans (burstBody_framebuffer inside), ?_, ?_, rfl, rfl, rfl, rfl, rfl, rfl⟩
  · exact State.trace_readFb.trans (congrArg (fun v => s.trace ++ [.fbRead (fbAddress s.cfg s.row s.col) v]) held)
  · exact congrArg (fun v => data v :: .burstNext .framebuffer :: rest) held

/-! ## The host's write (R68) -/

/-- The state a host write inside `BUF_LEN` leaves. -/
def State.written (a : Nat) (v : Byte) (s : State) : State :=
  { s with
    fb := Memory.write s.fb a v
    raced := if s.ready then s.raced else (a, Memory.read s.fb a) :: s.raced }

section
variable {s : State} {a b : Nat} {v : Byte}

theorem hostWriteFb_inside (h : a < s.cfg.bufLen) : hostWriteFb a v s = .next (s.written a v) := if_pos h

theorem hostWriteFb_outside (h : s.cfg.bufLen ≤ a) : hostWriteFb a v s = .fault (.noSuchFramebufferByte a) :=
  if_neg h.not_gt

theorem State.written_raced_ready (hr : s.ready = true) : (s.written a v).raced = s.raced := if_pos hr

theorem State.written_raced_busy (hb : s.ready = false) :
    (s.written a v).raced = (a, Memory.read s.fb a) :: s.raced :=
  if_neg (ne_true_of_eq_false hb)

theorem State.read_written (h : Memory.wf s.fb) :
    Memory.read (s.written a v).fb b = if a = b then v else Memory.read s.fb b :=
  Memory.read_write h a b v

theorem State.read_written_same (h : Memory.wf s.fb) : Memory.read (s.written a v).fb a = v :=
  (State.read_written h).trans (if_pos rfl)

theorem State.read_written_other (h : Memory.wf s.fb) (hab : b ≠ a) :
    Memory.read (s.written a v).fb b = Memory.read s.fb b :=
  (State.read_written h).trans (if_neg hab.symm)

/-- During an operation the byte replaced joins those a read of its address may yield. -/
theorem State.racedAt_written_same (hb : s.ready = false) :
    (s.written a v).racedAt a = Memory.read s.fb a :: s.racedAt a := by
  rw [State.racedAt, State.written_raced_busy hb]
  exact (s.racedAt_cons a a _).trans (if_pos rfl)

theorem State.racedAt_written_other (hab : b ≠ a) : (s.written a v).racedAt b = s.racedAt b := by
  cases hr : s.ready
  · rw [State.racedAt, State.written_raced_busy hr]
    exact (s.racedAt_cons a b _).trans (if_neg hab.symm)
  · rw [State.racedAt, State.written_raced_ready hr, State.racedAt]

/-- R68, R69 (3): at `READY = 1` a host write is read back. -/
theorem State.fbValue_written_ready (h : Memory.wf s.fb) (hn : s.raced = []) (hr : s.ready = true) :
    (s.written a v).fbValue a = v :=
  (State.fbValue_of_not_raced ((State.written_raced_ready hr).trans hn)).trans (State.read_written_same h)

/-- R68: during an operation a read of its address yields the byte written or any it or an earlier write replaced. -/
theorem State.fbValue_written_busy (h : Memory.wf s.fb) (hb : s.ready = false) :
    (s.written a v).fbValue a = v ∨ (s.written a v).fbValue a = Memory.read s.fb a ∨
      (s.written a v).fbValue a ∈ s.racedAt a := by
  have mem := (s.written a v).fbValue_mem a
  rwa [State.read_written_same h, State.racedAt_written_same hb, List.mem_cons, List.mem_cons] at mem

/-- R68: for the first write to race in an operation that is the new byte or the old one. -/
theorem State.fbValue_written_first (h : Memory.wf s.fb) (hn : s.raced = []) (hb : s.ready = false) :
    (s.written a v).fbValue a = v ∨ (s.written a v).fbValue a = Memory.read s.fb a := by
  obtain new | old | earlier := State.fbValue_written_busy (a := a) (v := v) h hb
  · exact .inl new
  · exact .inr old
  · rw [State.racedAt_of_not_raced hn] at earlier
    cases earlier

/-- A host write, in a race or not, does not touch the reads of other addresses. -/
theorem State.fbValue_written_other (h : Memory.wf s.fb) (hab : b ≠ a) : (s.written a v).fbValue b = s.fbValue b :=
  State.fbValue_congr (State.read_written_other h hab) (State.racedAt_written_other hab) rfl

end

/-- Settles O50: the step is `hostWriteFb`, and each clause is what `State.written` leaves to read. -/
theorem hostWriteIsReadBackOrRaces : Obligations.HostWriteIsReadBackOrRaces := by
  intro s a v rest hl hwf hm
  have run : step s = hostWriteFb a v (s.moved rest) := step_of_move hl hm
  have wf : Memory.wf (s.moved rest).fb := hwf
  refine ⟨fun inside => ?_, fun outside => run.trans (hostWriteFb_outside outside)⟩
  exact ⟨(s.moved rest).written a v, run.trans (hostWriteFb_inside inside), Memory.write_wf hwf a v,
    State.read_written_same wf, fun _ => State.read_written_other wf, State.fbValue_written_ready wf,
    State.fbValue_written_first wf, State.fbValue_written_busy wf, fun _ => State.fbValue_written_other wf⟩

/-! ## Faults (R72, R74) -/

section
variable {s : State} {r : Fault}

theorem present_ne_fault {code : Byte} {o0 o1 o2 o3 : Option Half} {body : State → List Micro} :
    present code o0 o1 o2 o3 body s ≠ .fault r := by
  cases hr : s.ready
  · rw [present_busy hr]
    nofun
  · rw [present_ready hr]
    nofun

/-- No instruction faults. -/
theorem exec_ne_fault {i : Instr} : exec i s ≠ .fault r := by
  cases hi : i.isRequest
  · obtain ⟨level, b, e⟩ := exec_wireSymbol hi
    rw [e]
    nofun
  · obtain ⟨code, o0, o1, o2, o3, body, e⟩ := exec_isRequest hi
    rw [e]
    exact present_ne_fault

/-- The one element of a micro-sequence that can fault is a burst's framebuffer read outside `BUF_LEN`. -/
theorem runMicro_fault {m : Micro} (h : runMicro m s = .fault r) :
    m = .burstByte .framebuffer ∧ s.cfg.bufLen ≤ fbAddress s.cfg s.row s.col := by
  cases m with
  | symbol w => exact absurd h exec_ne_fault
  | burstByte src =>
    obtain ⟨_, -, e⟩ | ⟨-, -, e⟩ | ⟨rfl, outside, -⟩ := burstBody_cases src s
    · cases e.symm.trans h
    · cases e.symm.trans h
    · exact ⟨rfl, outside⟩
  | cs _ | spi _ | legality | needImage | rst _ | delay _ | waitFree | poll | pollDelay | burst _ | burstNext _ => cases h

theorem acceptNext_ne_fault : acceptNext s ≠ .fault r := by
  unfold acceptNext
  split
  · exact exec_ne_fault
  · nofun
  · nofun

theorem presentNow_ne_fault {bytes : List Byte} : presentNow bytes s ≠ .fault r := by
  unfold presentNow
  split
  · exact exec_ne_fault
  · split <;> nofun
  · split <;> nofun

/-- R74: while the counters keep their ranges inside a burst, the core never faults. -/
theorem coreStep_ne_fault (hl : s.cfg.Legal)
    (counters : (∃ m ∈ s.todo, m.inBurst = true) → s.row.toNat < s.cfg.height ∧ s.col.toNat < s.cfg.rowBytes) :
    coreStep s ≠ .fault r := by
  unfold coreStep advance
  split
  · exact acceptNext_ne_fault
  · split
    · nofun
    · rename_i m rest ht
      intro h
      obtain ⟨rfl, outside⟩ := runMicro_fault h
      obtain ⟨hrow, hcol⟩ := counters ⟨_, ht ▸ List.mem_cons_self, rfl⟩
      exact outside.not_gt (fbAddress_lt hl hrow hcol)

theorem hostWriteFb_fault {a : Nat} {v : Byte} (h : hostWriteFb a v s = .fault r) :
    s.cfg.bufLen ≤ a ∧ r = .noSuchFramebufferByte a := by
  obtain inside | outside := Nat.lt_or_ge a s.cfg.bufLen
  · cases (hostWriteFb_inside inside).symm.trans h
  · cases (hostWriteFb_outside outside).symm.trans h
    exact ⟨outside, rfl⟩

end

/-- Settles O53: the invariant bounds the burst counters, so the core does not fault; of the host's moves the write alone can. -/
theorem noFaultUnderTheInvariant : Obligations.NoFaultUnderTheInvariant := by
  intro s r inv h
  cases hm : s.moves with
  | nil =>
    rw [step_of_no_moves inv.legal hm] at h
    exact absurd h (coreStep_ne_fault inv.legal inv.counters)
  | cons m rest =>
    rw [step_of_move inv.legal hm] at h
    cases m with
    | letRun => exact absurd h (coreStep_ne_fault (s := s.moved rest) inv.legal inv.counters)
    | present bytes => exact absurd h presentNow_ne_fault
    | coreReset => cases h
    | writeFb a v =>
      obtain ⟨outside, hr⟩ := hostWriteFb_fault (s := s.moved rest) h
      exact ⟨a, v, rfl, outside, hr⟩

end Sys2Proof.Machine

/-!
PROOFS. 30_encoding.md: the two decoders and the encoder agree (R80, R81, R90 to R94), reserved codes are refused (R92, R195),
wire symbols are sent as frames (R80), and the bytes and bits that go on the wire (R83 to R85, R88).
-/

namespace Sys2Proof

/-! ## The codes and opcodes of the two tables (R91, R81) -/

theorem requestRows_codes : requestRows.map Prod.fst = assignedCodes := rfl

theorem panelRows_opcodes : panelRows.map Prod.fst = panelOpcodes := rfl

theorem mem_assignedCodes_of_row {code : Byte} {operands : OperandDecoder} (h : (code, operands) ∈ requestRows) :
    code ∈ assignedCodes :=
  requestRows_codes ▸ List.mem_map_of_mem h

theorem mem_panelOpcodes_of_row {b : Byte} {i : Instr} (h : (b, i) ∈ panelRows) : b ∈ panelOpcodes :=
  panelRows_opcodes ▸ List.mem_map_of_mem h

theorem not_mem_keys {α : Type} {rows : List (Byte × α)} {b : Byte} (h : ∀ r ∈ rows, r.1 ≠ b) : b ∉ rows.map Prod.fst :=
  fun mem =>
    have ⟨r, hr, e⟩ := List.mem_map.1 mem
    h r hr e

/-- A code of no row is reserved (R92). -/
theorem not_mem_assignedCodes {code : Byte} (h : ∀ r ∈ requestRows, r.1 ≠ code) : code ∉ assignedCodes :=
  requestRows_codes ▸ not_mem_keys h

/-- A byte of no row is a raw command byte (R186). -/
theorem not_mem_panelOpcodes {b : Byte} (h : ∀ r ∈ panelRows, r.1 ≠ b) : b ∉ panelOpcodes :=
  panelRows_opcodes ▸ not_mem_keys h

@[simp] theorem wellFormed_reservedRequest {code : Byte} :
    (Instr.reservedRequest code).wellFormed = true ↔ code ∉ assignedCodes := by
  simp [Instr.wellFormed]

@[simp] theorem wellFormed_commandFrameRaw {b : Byte} :
    (Instr.commandFrameRaw b).wellFormed = true ↔ b ∉ panelOpcodes := by
  simp [Instr.wellFormed]

/-- Settles O1: each word evaluates to what it stands for. -/
theorem specWordsDecode : Obligations.SpecWordsDecode :=
  ⟨rfl, rfl, rfl, rfl, rfl, rfl, rfl, rfl, rfl, rfl⟩

/-! ## Decoding an encoding -/

/-- R92: no row reads a reserved code. -/
theorem decodeRequest_reserved {code : Byte} (h : code ∉ assignedCodes) (more : List Byte) :
    decodeRequest (code :: more) = .ok (.reservedRequest code, more) := by
  obtain ⟨operands, row, -⟩ | ⟨-, e⟩ := decodeRequest_cons code more
  · exact absurd (mem_assignedCodes_of_row row) h
  · exact e

/-- R90: each coordinate is joined again from its two bytes. -/
theorem decodeRequest_setWindow (xs ys xe ye : Half) (rest : List Byte) :
    decodeRequest ([0x05, lowByte xs, highByte xs, lowByte ys, highByte ys, lowByte xe, highByte xe, lowByte ye, highByte ye]
      ++ rest) = .ok (.setWindow xs ys xe ye, rest) := by
  conv_rhs => rw [← joinHalf_low_high xs, ← joinHalf_low_high ys, ← joinHalf_low_high xe, ← joinHalf_low_high ye]
  rfl

theorem decodeRequest_setCursor (x y : Half) (rest : List Byte) :
    decodeRequest ([0x06, lowByte x, highByte x, lowByte y, highByte y] ++ rest) = .ok (.setCursor x y, rest) := by
  conv_rhs => rw [← joinHalf_low_high x, ← joinHalf_low_high y]
  rfl

theorem decodeSymbol_dataSymbol (b : Byte) : decodeSymbol (dataSymbol b) = .dataFrame b := by
  obtain ⟨level, byte⟩ := symbol_data b
  rw [decodeSymbol, level, byte, if_pos rfl]

theorem decodeSymbol_commandSymbol {b : Byte} (h : b ∉ panelOpcodes) :
    decodeSymbol (commandSymbol b) = .commandFrameRaw b := by
  obtain ⟨level, byte⟩ := symbol_command b
  obtain ⟨data, -⟩ | ⟨-, ⟨i, row, -⟩ | ⟨-, e⟩⟩ := decodeSymbol_cases (commandSymbol b)
  · exact absurd (level.symm.trans data) Bool.false_ne_true
  · exact absurd (byte ▸ mem_panelOpcodes_of_row row) h
  · rw [e, byte]

/-- Settles O2: the row of a code or opcode reads its own encoding, a coordinate is joined from its two bytes, and the two rows of
lowest priority are reached because a well-formed one has a byte of no other row. -/
theorem encodeThenDecode : Obligations.EncodeThenDecode := by
  intro i wf
  cases i with
  | sendCommand _ | sendData _ | reset | waitFree | sendLut | on _ | prepareDisplay | displayImage _ | displayBase _
  | displayPartial _ | clear _ | powerDown => exact fun _ => rfl
  | setWindow xs ys xe ye => exact decodeRequest_setWindow xs ys xe ye
  | setCursor x y => exact decodeRequest_setCursor x y
  | reservedRequest code => exact decodeRequest_reserved (wellFormed_reservedRequest.1 wf)
  | driverOutputControl | deepSleepMode | dataEntryMode | softwareReset | masterActivation | displayUpdateControl
  | displayUpdateControl2 | writeRamA | writeRamB | writeLut | gateBorderConfig | borderWaveform | setRamXRange
  | setRamYRange | setRamXCounter | setRamYCounter => exact rfl
  | dataFrame b => exact decodeSymbol_dataSymbol b
  | commandFrameRaw b => exact decodeSymbol_commandSymbol (wellFormed_commandFrameRaw.1 wf)

/-! ## Encoding what was decoded -/

/-- What the row of a request reads is well formed, and is encoded as the code and the operand bytes taken. -/
def ReadsBack (code : Byte) (operands : OperandDecoder) : Prop :=
  ∀ more i rest, operands more = .ok (i, rest) →
    i.wellFormed = true ∧ ∃ taken, encode i = .request (code :: taken) ∧ more = taken ++ rest

section
variable {code : Byte}

theorem readsBack_noOperand {i : Instr} (wf : i.wellFormed = true) (e : encode i = .request [code]) :
    ReadsBack code (noOperand i) := by
  intro more j rest h
  cases h
  exact ⟨wf, [], e, rfl⟩

theorem readsBack_byteOperand {mk : Byte → Instr} (wf : ∀ b, (mk b).wellFormed = true)
    (e : ∀ b, encode (mk b) = .request [code, b]) : ReadsBack code (byteOperand code mk) := by
  intro more j rest h
  obtain ⟨b, rfl, rfl⟩ := byteOperand_ok h
  exact ⟨wf b, [b], e b, rfl⟩

theorem readsBack_windowOperands : ReadsBack 0x05 windowOperands := by
  intro more j rest h
  obtain ⟨s, s', t, t', e, e', f, f', rfl, rfl⟩ := windowOperands_ok h
  exact ⟨rfl, [s, s', t, t', e, e', f, f'], by simp only [encode, lowByte_joinHalf, highByte_joinHalf], rfl⟩

theorem readsBack_cursorOperands : ReadsBack 0x06 cursorOperands := by
  intro more j rest h
  obtain ⟨x, x', y, y', rfl, rfl⟩ := cursorOperands_ok h
  exact ⟨rfl, [x, x', y, y'], by simp only [encode, lowByte_joinHalf, highByte_joinHalf], rfl⟩

end

theorem requestRows_readBack : ∀ row ∈ requestRows, ReadsBack row.1 row.2 := by
  simp only [requestRows, List.forall_mem_cons]
  and_intros
  all_goals first
    | exact readsBack_noOperand rfl rfl
    | exact readsBack_byteOperand (fun _ => rfl) (fun _ => rfl)
    | exact readsBack_windowOperands
    | exact readsBack_cursorOperands
    | exact List.forall_mem_nil _

theorem wellFormed_encode_of_decodeRequest {bytes rest : List Byte} {i : Instr} (h : decodeRequest bytes = .ok (i, rest)) :
    i.wellFormed = true ∧ ∃ taken, encode i = .request taken ∧ bytes = taken ++ rest := by
  cases bytes with
  | nil => cases h
  | cons code more =>
    obtain ⟨operands, row, e⟩ | ⟨noRow, e⟩ := decodeRequest_cons code more <;> rw [e] at h
    · obtain ⟨wf, taken, he, rfl⟩ := requestRows_readBack _ row more i rest h
      exact ⟨wf, code :: taken, he, rfl⟩
    · cases h
      exact ⟨wellFormed_reservedRequest.2 (not_mem_assignedCodes noRow), [code], rfl, rfl⟩

/-- R80: bit 8 and bits 7:0 are the whole of a symbol. -/
theorem commandSymbol_symbolByte {w : BitVec 9} (h : symbolLevel w = false) : commandSymbol (symbolByte w) = w := by
  ext k hk
  obtain low | rfl : k < 8 ∨ k = 8 := by omega
  · simp [commandSymbol, symbolByte, low, hk]
  · simpa [commandSymbol, symbolByte, symbolLevel] using h.symm

theorem dataSymbol_symbolByte {w : BitVec 9} (h : symbolLevel w = true) : dataSymbol (symbolByte w) = w := by
  have clear : ∀ k (_ : k < 8), (256#9)[k] = false := by decide
  ext k hk
  obtain low | rfl : k < 8 ∨ k = 8 := by omega
  · simp [dataSymbol, symbolByte, clear k low, low, BitVec.getLsbD_eq_getElem hk]
  · simpa [dataSymbol, symbolByte, symbolLevel] using h.symm

theorem panelRows_encode : ∀ row ∈ panelRows,
    row.2.wellFormed = true ∧ row.2.isRequest = false ∧ encode row.2 = .symbol (commandSymbol row.1) := by
  decide

theorem wellFormed_encode_decodeSymbol (w : BitVec 9) :
    (decodeSymbol w).wellFormed = true ∧ (decodeSymbol w).isRequest = false ∧ encode (decodeSymbol w) = .symbol w := by
  obtain ⟨level, e⟩ | ⟨level, ⟨i, row, e⟩ | ⟨noRow, e⟩⟩ := decodeSymbol_cases w <;> rw [e]
  · exact ⟨rfl, rfl, congrArg Encoded.symbol (dataSymbol_symbolByte level)⟩
  · simpa only [commandSymbol_symbolByte level] using panelRows_encode _ row
  · exact ⟨wellFormed_commandFrameRaw.2 (not_mem_panelOpcodes noRow), rfl,
      congrArg Encoded.symbol (commandSymbol_symbolByte level)⟩

/-- Settles O3: row by row for the request codes, and by the three ways a symbol is decoded. -/
theorem decodeThenEncode : Obligations.DecodeThenEncode :=
  ⟨fun _ _ _ h =>
    have ⟨wf, taken⟩ := wellFormed_encode_of_decodeRequest h
    ⟨wf, Machine.decodeRequest_isRequest h, taken⟩, wellFormed_encode_decodeSymbol⟩

/-! ## The length of a request (R94) -/

/-- The operands of code `code` are `n` bytes, whatever they are: fewer are refused, and any that follow are left. -/
structure TakesBytes (code : Byte) (n : Nat) (operands : OperandDecoder) : Prop where
  short : ∀ more, more.length < n → operands more = .error (.tooShort code)
  enough : ∀ more, n ≤ more.length → ∃ i, operands more = .ok (i, more.drop n)

section
variable {code : Byte}

theorem takesBytes_noOperand (i : Instr) : TakesBytes code 0 (noOperand i) :=
  ⟨fun _ h => absurd h (Nat.not_lt_zero _), fun _ _ => ⟨i, rfl⟩⟩

theorem takesBytes_byteOperand (mk : Byte → Instr) : TakesBytes code 1 (byteOperand code mk) where
  short
    | [], _ => rfl
    | _ :: _, h => by simp at h
  enough
    | [], h => by simp at h
    | b :: _, _ => ⟨mk b, rfl⟩

theorem takesBytes_cursorOperands : TakesBytes 0x06 4 cursorOperands where
  short more h := by
    unfold cursorOperands
    split
    · simp only [List.length_cons] at h
      omega
    · rfl
  enough
    | _ :: _ :: _ :: _ :: _, _ => ⟨_, rfl⟩
    | [], h | [_], h | [_, _], h | [_, _, _], h => by simp at h

theorem takesBytes_windowOperands : TakesBytes 0x05 8 windowOperands where
  short more h := by
    unfold windowOperands
    split
    · simp only [List.length_cons] at h
      omega
    · rfl
  enough
    | _ :: _ :: _ :: _ :: _ :: _ :: _ :: _ :: _, _ => ⟨_, rfl⟩
    | [], h | [_], h | [_, _], h | [_, _, _], h | [_, _, _, _], h | [_, _, _, _, _], h | [_, _, _, _, _, _], h
    | [_, _, _, _, _, _, _], h => by simp at h

end

theorem requestRows_takeBytes : ∀ row ∈ requestRows, ∃ n, requestLength row.1 = n + 1 ∧ TakesBytes row.1 n row.2 := by
  simp only [requestRows, List.forall_mem_cons]
  and_intros
  all_goals first
    | exact ⟨0, rfl, takesBytes_noOperand _⟩
    | exact ⟨1, rfl, takesBytes_byteOperand _⟩
    | exact ⟨8, rfl, takesBytes_windowOperands⟩
    | exact ⟨4, rfl, takesBytes_cursorOperands⟩
    | exact List.forall_mem_nil _

theorem requestLength_reserved {code : Byte} (h : code ∉ assignedCodes) : requestLength code = 1 := by
  obtain ⟨-, shape⟩ := Laws.EncodedShape.reservedRequest code
  obtain ⟨_, _, e, length⟩ := shape (wellFormed_reservedRequest.2 h)
  cases e
  exact length.symm

/-- R94: what follows byte 0 is read as `requestLength` says, whether the code has a row or is reserved. -/
theorem decodeRequest_takesBytes (code : Byte) :
    ∃ n, requestLength code = n + 1 ∧ TakesBytes code n fun more => decodeRequest (code :: more) := by
  cases e : requestRows.lookup code with
  | some operands =>
    have read : (fun more => decodeRequest (code :: more)) = operands := by
      funext more
      rw [decodeRequest, e]
    rw [read]
    exact requestRows_takeBytes _ (lookup_some e)
  | none =>
    have reserved : code ∉ assignedCodes := not_mem_assignedCodes (lookup_none e)
    exact ⟨0, requestLength_reserved reserved, fun _ h => absurd h (Nat.not_lt_zero _),
      fun more _ => ⟨_, decodeRequest_reserved reserved more⟩⟩

theorem decodeRequest_length {code : Byte} {more rest : List Byte} {i : Instr}
    (h : decodeRequest (code :: more) = .ok (i, rest)) : more.length + 1 = requestLength code + rest.length := by
  obtain ⟨n, length, takes⟩ := decodeRequest_takesBytes code
  obtain few | all := Nat.lt_or_ge more.length n
  · cases h.symm.trans (takes.short more few)
  · obtain ⟨j, e⟩ := takes.enough more all
    cases h.symm.trans e
    rw [length, List.length_drop]
    omega

theorem decodeRequest_tooShort {code : Byte} {more : List Byte} (h : more.length + 1 < requestLength code) :
    decodeRequest (code :: more) = .error (.tooShort code) := by
  obtain ⟨n, length, takes⟩ := decodeRequest_takesBytes code
  exact takes.short more (by omega)

theorem decodeRequest_ok {code : Byte} {more : List Byte} (h : requestLength code ≤ more.length + 1) :
    ∃ i rest, decodeRequest (code :: more) = .ok (i, rest) := by
  obtain ⟨n, length, takes⟩ := decodeRequest_takesBytes code
  obtain ⟨i, e⟩ := takes.enough more (by omega)
  exact ⟨i, _, e⟩

/-- Settles O4: the lengths are read off the table, and `decodeRequest_takesBytes` says that decoding keeps to them. -/
theorem requestLengthIsFixedByByteZero : Obligations.RequestLengthIsFixedByByteZero :=
  ⟨by decide, by decide, rfl, rfl, fun _ h => requestLength_reserved (by simpa using h), fun _ _ _ _ => decodeRequest_length,
    fun _ _ => decodeRequest_tooShort, fun _ _ => decodeRequest_ok⟩

end Sys2Proof

namespace Sys2Proof.Machine

/-! ## Reserved codes (R92, R195) -/

theorem legalIn_reserved {code : Byte} (h : code ∉ assignedCodes) (m : MacroState) : legalIn code m = false := by
  have notEverywhere : ¬ (code = 0x03 ∨ code = 0x04 ∨ code = 0x10) := by
    rintro (rfl | rfl | rfl) <;> exact h (by decide)
  rw [legalIn, if_neg notEverywhere]
  simp [h]

/-- Settles O36: a reserved code has no row in the request map and is legal in no state of `MACRO`. -/
theorem reservedRequestIsIllegal : Obligations.ReservedRequestIsIllegal := fun s code more calm reserved =>
  ⟨decodeRequest_reserved reserved more,
    refused_of_illegal calm (exec_reservedRequest code) (legalIn_reserved reserved s.macroState)⟩

/-! ## The frame of a wire symbol (R80) -/

section
variable {s : State} {level : Level} {b : Byte}

theorem Running.step_emits (run : Running s) {m : Micro} {e : Event} (h : ∀ t, runMicro m t = .next (t.emit e))
    (rest : List Micro) : Machine.step (s.withTodo (m :: rest)) = .next ((s.emit e).withTodo rest) :=
  (Running.step_cons (s := s.withTodo (m :: rest)) ⟨run.legal, run.busy, run.noMoves⟩ rfl).trans (h _)

/-- The three steps after the start of a frame: `CS(a)`, `SPI(b)`, `CS(i)`. -/
theorem run_startFrame (run : Running s) :
    Host.Core.run Sys2Proof.core 3 (s.startFrame level b) =
      .next ((((s.emit (.dc level)).emit (.cs true)).emit (.spi b)).emit (.cs false)) := by
  have afterDc := run.keeps (.emit (.dc level) s)
  have selected := afterDc.keeps (.emit (.cs true) _)
  have shifted := selected.keeps (.emit (.spi b) _)
  calc Host.Core.run Sys2Proof.core 3 (s.startFrame level b)
      = Host.Core.run Sys2Proof.core 2 _ := run_succ 2 (afterDc.step_emits (fun _ => rfl) (.spi b :: .cs false :: s.todo))
    _ = Host.Core.run Sys2Proof.core 1 _ := run_succ 1 (selected.step_emits (fun _ => rfl) (.cs false :: s.todo))
    _ = Host.Core.run Sys2Proof.core 0 _ := run_succ 0 (shifted.step_emits (fun _ => rfl) s.todo)

theorem sendsFrame_of_exec {i : Instr} (run : Running s) (h : exec i s = .next (s.startFrame level b)) :
    SendsFrame i level b s :=
  ⟨s.startFrame level b, h, State.trace_emit s (.dc level), rfl, rfl, run_startFrame run⟩

end

/-- Settles O37: every wire symbol and every row of the command opcodes starts a frame, and three steps send the rest of it. -/
theorem wireSymbolsAreSentAsFrames : Obligations.WireSymbolsAreSentAsFrames := by
  intro s hl hb hm
  have sends {i : Instr} {level : Level} {b : Byte} (h : exec i s = .next (s.startFrame level b)) : SendsFrame i level b s :=
    sendsFrame_of_exec ⟨hl, hb, hm⟩ h
  have named : ∀ row ∈ panelRows, SendsFrame row.2 false row.1 s := fun row h => sends (exec_panelRows s row h)
  simp only [panelRows, List.forall_mem_cons] at named
  obtain ⟨r1, r2, r3, r4, r5, r6, r7, r8, r9, r10, r11, r12, r13, r14, r15, r16, -⟩ := named
  exact ⟨fun w => sends (exec_decodeSymbol w s), r1, r2, r3, r4, r5, r6, r7, r8, r9, r10, r11, r12, r13, r14, r15, r16,
    fun _ => sends rfl, fun _ => sends rfl⟩

/-! ## The bytes of a coordinate (R83, R84, R85) -/

theorem windowX_toNat (v : Half) : (windowX v).toNat = v.toNat / 8 % 256 := by
  rw [windowX_eq, BitVec.toNat_ofNat]

/-- Settles O5: the cursor's X byte is the low byte, unshifted. -/
theorem coordinateBytesOnTheWire : Obligations.CoordinateBytesOnTheWire := fun v =>
  ⟨windowX_toNat v, lowByte_toNat v, highByte_toNat v, lowByte_toNat v⟩

/-! ## The bits of a byte (R88) -/

theorem spiWrites_eq (b : Byte) : spiWrites b = ([7, 6, 5, 4, 3, 2, 1, 0].map b.getLsbD).flatMap spiBit :=
  (List.flatMap_map ..).symm

/-- From low to low, one pulse of `SCK` shows the panel one bit. -/
theorem risingSamples_flatMap_spiBit (bits : List Level) (mosi : Level) :
    risingSamples (bits.flatMap spiBit) false mosi = bits := by
  induction bits generalizing mosi with
  | nil => rfl
  | cons bit bits ih => exact congrArg (bit :: ·) (ih bit)

theorem count_sck_flatMap_spiBit (bits : List Level) (l : Level) : (bits.flatMap spiBit).count (.sck l) = bits.length := by
  induction bits with
  | nil => rfl
  | cons bit bits ih => cases l <;> simp [spiBit, ih]

/-- Settles O6: a byte is eight pulses, each of which shows one bit. -/
theorem spiShiftsMostSignificantBitFirst : Obligations.SpiShiftsMostSignificantBitFirst := by
  intro b before
  refine ⟨rfl, ?_, ?_, ?_, fun s _ => ⟨Event.sckAfter_spi b s.sck, Event.mosiAfter_spi b s.mosi⟩⟩ <;> rw [spiWrites_eq]
  · exact risingSamples_flatMap_spiBit _ before
  · exact count_sck_flatMap_spiBit _ true
  · exact count_sck_flatMap_spiBit _ false

end Sys2Proof.Machine

/-!
PROOFS. 40_bus_transport.md: the frames of `SEND_COMMAND` and `SEND_DATA` (R110, R111), what a wire symbol leaves unchanged (R113),
and that every step keeps the invariant (R112). The last rests on `BetweenFrames`, the invariant with the machine between two frames
of an operation: one rule says how it fares under each state operation, and an element of a micro-sequence is put together of those.
-/

namespace Sys2Proof.Machine

/-! ## One frame (R110, R111, R113) -/

section
variable {s : State} {code : Byte}

/-- Every assigned code but the three that are legal everywhere is legal in `Active` alone (R196). -/
theorem legalIn_active_only (assigned : code ∈ assignedCodes) (restricted : ¬ (code = 0x03 ∨ code = 0x04 ∨ code = 0x10))
    (m : MacroState) : legalIn code m = decide (m = .active) := by
  rw [legalIn, if_neg restricted, List.contains_iff_mem.2 assigned, Bool.true_and]

/-- A request that is legal in `Active` alone and whose micro-sequence is one symbol: in `Active` it sends the frame of that symbol
and leaves `DC` at its level, elsewhere it is refused. -/
theorem sends_symbol_or_refused {i : Instr} {o0 o1 o2 o3 : Option Half} {body : State → List Micro} {w : BitVec 9}
    (calm : Calm s) (hi : IsRequest i code o0 o1 o2 o3 body) (legal : legalIn code s.macroState = decide (s.macroState = .active))
    (stays : nextMacroState code s.macroState = s.macroState) (hb : body (s.accept code o0 o1 o2 o3) = [.symbol w]) :
    (s.macroState = .active → Succeeds i s .active (frame w) s.samples s.rst (some (symbolLevel w))) ∧
    (s.macroState ≠ .active → Refused i s) := by
  refine ⟨fun active => ?_, fun inactive => refused_of_illegal calm hi (legal.trans (decide_eq_false inactive))⟩
  have run : Running (s.accept code o0 o1 o2 o3) := ⟨calm.legal, rfl, calm.noMoves⟩
  obtain ⟨u, runs, reports, pins, -⟩ :=
    succeeds_of_plays calm hi (legal.trans (decide_eq_true active)) (hb ▸ plays_symbol run w)
  rw [stays, active] at reports
  exact ⟨u, runs, reports, pins⟩

end

/-- Settles O18: the operand byte is the symbol's byte, whatever it is, and the code is legal in `Active` alone. -/
theorem sendCommandSendsOneCommandFrame : Obligations.SendCommandSendsOneCommandFrame := by
  refine ⟨fun _ _ => rfl, fun s b calm => ?_⟩
  have sends := sends_symbol_or_refused calm (exec_sendCommand b) (legalIn_active_only (by decide) (by decide) _)
    (nextMacroState_of_ne (by decide) (by decide) (by decide)) (congrArg (fun b => [command b]) (lowByte_zext16 b))
  rwa [frame_command, (symbol_command b).1] at sends

/-- Settles O19: as for `SEND_COMMAND`, with the data symbol. -/
theorem sendDataSendsOneDataFrame : Obligations.SendDataSendsOneDataFrame := by
  refine ⟨fun _ _ => rfl, fun s b calm => ?_⟩
  have sends := sends_symbol_or_refused calm (exec_sendData b) (legalIn_active_only (by decide) (by decide) _)
    (nextMacroState_of_ne (by decide) (by decide) (by decide)) (congrArg (fun b => [data b]) (lowByte_zext16 b))
  rwa [frame_data, (symbol_data b).1] at sends

/-- Settles O38: a wire symbol's own step is `State.startFrame`, one `DC` event and the rest of the frame still to do. -/
theorem wireSymbolsTouchOnlyTheTransport : Obligations.WireSymbolsTouchOnlyTheTransport := by
  intro i s t hi h
  obtain ⟨level, b, starts⟩ := exec_wireSymbol hi
  cases (starts s).symm.trans h
  have event : (s.startFrame level b).trace = s.trace ++ [.dc level] := State.trace_emit s (.dc level)
  exact ⟨rfl, rfl, rfl, rfl, rfl, rfl, rfl, rfl, rfl, rfl, rfl, rfl, rfl, rfl, rfl, rfl, rfl, rfl, rfl, ⟨level, rfl, event⟩,
    fun _ => rfl⟩

/-! ## Phases of a frame (R112) -/

/-- The level of `chip_select` in a phase of a frame. -/
def FramePhase.select (c : Config) (p : FramePhase) : Level :=
  if p = .selected ∨ p = .shifted then c.csActive else c.csInactive

/-- An event that keeps the framing takes `chip_select` to the level of the phase it leads to. -/
theorem FramePhase.csAfter_of_next {c : Config} {p q : FramePhase} {e : Event} (h : p.next e = some q) :
    e.csAfter c (p.select c) = q.select c := by
  unfold FramePhase.next at h
  split at h <;> cases h <;> rfl

theorem framePhase_cons {es : List Event} {p : FramePhase} (h : framePhase es = some p) (e : Event) :
    framePhase (e :: es) = p.next e := by
  rw [framePhase, h, Option.bind_some]

/-- A micro-sequence of whole elements is to be taken up outside a frame. -/
theorem phase_of_whole {ms : List Micro} (h : ∀ m ∈ ms, m.isWhole = true) : todoPhase ms = .outside ∧ afterFrame ms = ms := by
  cases ms with
  | nil => exact ⟨rfl, rfl⟩
  | cons m ms =>
    cases m with
    | cs _ | spi _ => cases h _ List.mem_cons_self
    | symbol _ | legality | needImage | rst _ | delay _ | waitFree | poll | pollDelay | burst _ | burstByte _ | burstNext _ =>
      exact ⟨rfl, rfl⟩

theorem todoPhase_of_whole {ms : List Micro} (h : ∀ m ∈ ms, m.isWhole = true) : todoPhase ms = .outside := (phase_of_whole h).1

theorem afterFrame_of_whole {ms : List Micro} (h : ∀ m ∈ ms, m.isWhole = true) : afterFrame ms = ms := (phase_of_whole h).2

/-- What a micro-sequence that is not used up can begin with: a whole element with only whole ones after it, or one of the three
elements of a frame in progress. -/
theorem todo_cons_cases {m : Micro} {rest : List Micro} (h : ∀ n ∈ afterFrame (m :: rest), n.isWhole = true) :
    (m.isWhole = true ∧ ∀ n ∈ rest, n.isWhole = true) ∨
    (∃ b ms, m = .cs true ∧ rest = .spi b :: .cs false :: ms) ∨
    (∃ b ms, m = .spi b ∧ rest = .cs false :: ms) ∨
    m = .cs false := by
  unfold afterFrame at h
  split at h
  next b ms e =>
    cases e
    exact .inr (.inl ⟨_, _, rfl, rfl⟩)
  next e =>
    cases e
    exact .inr (.inr (.inl ⟨_, _, rfl, rfl⟩))
  next e =>
    cases e
    exact .inr (.inr (.inr rfl))
  next => exact .inl (List.forall_mem_cons.1 h)

/-! ## The ranges of the loops (R24, R121) -/

/-- Where `m` is inside a burst the burst counters are in range, where it is inside the poll loop the poll count is. -/
def State.InRange (s : State) (m : Micro) : Prop :=
  (m.inBurst = true → s.row.toNat < s.cfg.height ∧ s.col.toNat < s.cfg.rowBytes) ∧ (m.inPoll = true → s.admits s.polls)

section
variable {s t : State}

theorem State.inRange_of_outside {m : Micro} (burst : m.inBurst = false) (poll : m.inPoll = false) : s.InRange m :=
  ⟨fun h => (nomatch burst.symm.trans h), fun h => (nomatch poll.symm.trans h)⟩

theorem Invariant.inRange (inv : Invariant s) : ∀ m ∈ s.todo, s.InRange m := fun m hm =>
  ⟨fun h => inv.counters ⟨m, hm, h⟩, fun h => inv.polling ⟨m, hm, h⟩⟩

/-- An event that takes the framing to where the micro-sequence `ms` goes on keeps the invariant. -/
theorem Invariant.emit_withTodo (inv : Invariant s) (busy : s.ready = false) {e : Event} {ms : List Micro}
    (next : (todoPhase s.todo).next e = some (todoPhase ms)) (whole : ∀ m ∈ afterFrame ms, m.isWhole = true)
    (inRange : ∀ m ∈ ms, s.InRange m) (read : ∀ a v, e = .fbRead a v → a < s.cfg.bufLen) :
    Invariant ((s.emit e).withTodo ms) where
  legal := inv.legal
  fbWf := inv.fbWf
  fbInside := inv.fbInside
  idle := fun ready => nomatch busy.symm.trans ready
  races := fun ready => nomatch busy.symm.trans ready
  flag3 := inv.flag3
  result := inv.result
  sckLow := (congrArg e.sckAfter inv.sckLow).trans e.sckAfter_of_low
  framed := (framePhase_cons inv.framed e).trans next
  whole := whole
  select := (congrArg (e.csAfter s.cfg) inv.select).trans (FramePhase.csAfter_of_next next)
  counters := fun ⟨m, hm, h⟩ => (inRange m hm).1 h
  polling := fun ⟨m, hm, h⟩ => (inRange m hm).2 h
  reads := fun a v h => (List.mem_cons.1 h).elim (fun e => read a v e.symm) (inv.reads a v)

/-! ## Between two frames of an operation -/

/-- The invariant, with an operation in progress and no frame begun. -/
structure BetweenFrames (s : State) : Prop extends Invariant s where
  busy : s.ready = false
  wholeTodo : ∀ m ∈ s.todo, m.isWhole = true

namespace BetweenFrames

theorem withTodo (h : BetweenFrames s) {ms : List Micro} (whole : ∀ m ∈ ms, m.isWhole = true)
    (inRange : ∀ m ∈ ms, s.InRange m) : BetweenFrames (s.withTodo ms) where
  toInvariant :=
    have phase : todoPhase ms = todoPhase s.todo := (todoPhase_of_whole whole).trans (todoPhase_of_whole h.wholeTodo).symm
    { h with
      idle := fun ready => nomatch h.busy.symm.trans ready
      framed := h.framed.trans (congrArg some phase.symm)
      whole := (afterFrame_of_whole whole).symm ▸ whole
      select := h.select.trans (congrArg (FramePhase.select s.cfg) phase.symm)
      counters := fun ⟨m, hm, inside⟩ => (inRange m hm).1 inside
      polling := fun ⟨m, hm, inside⟩ => (inRange m hm).2 inside }
  busy := h.busy
  wholeTodo := whole

theorem prepend (h : BetweenFrames s) {ms : List Micro} (whole : ∀ m ∈ ms, m.isWhole = true)
    (inRange : ∀ m ∈ ms, s.InRange m) : BetweenFrames (s.prepend ms) :=
  h.withTodo (List.forall_mem_append.2 ⟨whole, h.wholeTodo⟩) (List.forall_mem_append.2 ⟨inRange, h.inRange⟩)

/-- One element put in front of the rest. -/
theorem push (h : BetweenFrames s) {m : Micro} (whole : m.isWhole = true) (inRange : s.InRange m) :
    BetweenFrames (s.prepend [m]) :=
  h.prepend (List.forall_mem_singleton.2 whole) (List.forall_mem_singleton.2 inRange)

/-- An event that is no part of a frame; a framebuffer read must be below `BUF_LEN`. -/
theorem emit (h : BetweenFrames s) {e : Event} (outside : FramePhase.outside.next e = some .outside)
    (read : ∀ a v, e = .fbRead a v → a < s.cfg.bufLen) : BetweenFrames (s.emit e) where
  toInvariant :=
    have phase : todoPhase s.todo = .outside := todoPhase_of_whole h.wholeTodo
    h.emit_withTodo h.busy (phase.symm ▸ outside) h.whole h.inRange read
  busy := h.busy
  wholeTodo := h.wholeTodo

/-- The start of a frame (R80). -/
theorem startFrame (h : BetweenFrames s) (level : Level) (b : Byte) : Invariant (s.startFrame level b) := by
  have phase : todoPhase s.todo = .outside := todoPhase_of_whole h.wholeTodo
  refine h.emit_withTodo (e := .dc level) (ms := .cs true :: .spi b :: .cs false :: s.todo) h.busy ?_ h.wholeTodo ?_ nofun
  · rw [phase]
    rfl
  · simp only [List.forall_mem_cons]
    exact ⟨State.inRange_of_outside rfl rfl, State.inRange_of_outside rfl rfl, State.inRange_of_outside rfl rfl, h.inRange⟩

/-- Completion, with a code that is produced (R194). -/
theorem complete (h : BetweenFrames s) {k : Completion} (produced : k ≠ .transportFailure) : Invariant (s.complete k) :=
  have phase : todoPhase s.todo = .outside := todoPhase_of_whole h.wholeTodo
  { h with
    idle := fun _ => rfl
    races := fun _ => rfl
    flag3 := by rw [State.complete_eflags, BitVec.getLsbD_or, h.flag3, k.flag_bit3, Bool.or_false]
    result := produced
    framed := h.framed.trans (congrArg some phase)
    whole := fun _ hm => nomatch hm
    select := h.select.trans (congrArg (FramePhase.select s.cfg) phase)
    counters := fun ⟨_, hm, _⟩ => nomatch hm
    polling := fun ⟨_, hm, _⟩ => nomatch hm }

theorem setPolls (h : BetweenFrames s) {k : Nat} (admits : s.admits k) : BetweenFrames { s with polls := k } :=
  { h with polling := fun _ => admits }

theorem setCounters (h : BetweenFrames s) {row : BitVec 16} {col : BitVec 9} (hrow : row.toNat < s.cfg.height)
    (hcol : col.toNat < s.cfg.rowBytes) : BetweenFrames { s with row := row, col := col } :=
  { h with counters := fun _ => ⟨hrow, hcol⟩ }

/-- The invariant says nothing of the panel's answers, the free values drawn, and `SEQ_PC`. -/
theorem setUnseen (h : BetweenFrames s) (samples : List Level) (draws seqPc : Nat) :
    BetweenFrames { s with samples := samples, draws := draws, seqPc := seqPc } :=
  { h with }

theorem takeLevel (h : BetweenFrames s) : BetweenFrames s.takeLevel := by
  unfold State.takeLevel
  split
  · exact h.setUnseen _ s.draws s.seqPc
  · exact h.setUnseen s.samples _ s.seqPc

theorem sample (h : BetweenFrames s) : BetweenFrames s.sample :=
  h.takeLevel.emit rfl nofun

theorem readFb (h : BetweenFrames s) {a : Nat} (inside : a < s.cfg.bufLen) : BetweenFrames (s.readFb a) :=
  (h.emit (e := .fbRead a (s.fbValue a)) rfl fun _ _ e => by cases e; exact inside).setUnseen s.samples _ (s.seqPc + 1)

/-! ## One element of a micro-sequence -/

theorem checkLegality (h : BetweenFrames s) : Invariant (checkLegality s) := by
  obtain ⟨-, e⟩ | ⟨-, e⟩ := checkLegality_cases s <;> rw [e]
  · exact h.toInvariant
  · exact h.complete nofun

theorem checkImage (h : BetweenFrames s) : Invariant (checkImage s) := by
  obtain ⟨-, e⟩ | ⟨-, e⟩ := checkImage_cases s <;> rw [e]
  · exact h.toInvariant
  · exact h.complete nofun

/-- `POLLS` starts at 0, below every limit (R5). -/
theorem startPoll (h : BetweenFrames s) : BetweenFrames (startPoll s) := by
  obtain ⟨-, -, -, -, -, -, limit⟩ := h.legal
  have admits : s.admits 0 := fun n hn => Nat.pos_of_ne_zero fun zero => limit (zero ▸ hn)
  exact (h.setPolls admits).push rfl ⟨nofun, fun _ => admits⟩

/-- A busy sample that does not reach the limit leaves the count below it (R121, R124). -/
theorem pollOnce (h : BetweenFrames s) (admits : s.admits s.polls) : Invariant (pollOnce s) := by
  obtain ⟨-, e⟩ | ⟨-, -, e⟩ | ⟨-, below, e⟩ := pollOnce_cases s <;> rw [e]
  · exact h.sample.toInvariant
  · exact { h.sample.complete (k := .syncTimeout) nofun with polling := fun ⟨_, hm, _⟩ => nomatch hm }
  · have admits : s.sample.admits (s.polls + 1) := by
      intro n limit
      rw [State.sample, State.emit_cfg, State.takeLevel_cfg] at limit
      exact Nat.lt_of_le_of_ne (admits n limit) fun reached => below (reached ▸ limit)
    exact ((h.sample.setPolls admits).push (m := .pollDelay) rfl ⟨nofun, fun _ => admits⟩).toInvariant

theorem delayAndRepeat (h : BetweenFrames s) (admits : s.admits s.polls) : BetweenFrames (delayAndRepeat s) :=
  ((h.emit (e := .delay pollMs) rfl nofun).setUnseen s.samples s.draws _).push rfl ⟨nofun, fun _ => admits⟩

/-- The burst loop taken up at counters in range. -/
theorem burstFrom (h : BetweenFrames s) (src : BurstSource) {row : BitVec 16} {col : BitVec 9}
    (hrow : row.toNat < s.cfg.height) (hcol : col.toNat < s.cfg.rowBytes) :
    BetweenFrames (({ s with row := row, col := col } : State).prepend [.burstByte src]) :=
  (h.setCounters hrow hcol).push rfl ⟨fun _ => ⟨hrow, hcol⟩, nofun⟩

/-- A legal panel has a first row and a first column byte. -/
theorem startBurst (h : BetweenFrames s) (src : BurstSource) : BetweenFrames (startBurst src s) := by
  have ⟨_, _, _, _, height, _, _⟩ := h.legal
  exact h.burstFrom src (Nat.lt_of_lt_of_le (by decide) height) (rowBytes_le h.legal).1

theorem burstBody (h : BetweenFrames s) {src : BurstSource} (inRange : s.InRange (.burstByte src))
    (run : burstBody src s = .next t) : BetweenFrames t := by
  have turn {u : State} (hu : BetweenFrames u) (keeps : u.InRange (.burstNext src)) (v : Byte) :
      BetweenFrames (u.prepend [data v, .burstNext src]) :=
    (hu.push rfl keeps).push rfl (State.inRange_of_outside rfl rfl)
  obtain ⟨c, -, e⟩ | ⟨-, inside, e⟩ | ⟨-, -, e⟩ := burstBody_cases src s <;> cases e.symm.trans run
  · exact turn h inRange c
  · exact turn (h.readFb inside) inRange _

/-- The advance takes the counters to the next address, or leaves the loop. -/
theorem advanceBurst (h : BetweenFrames s) {src : BurstSource} (inRange : s.InRange (.burstNext src)) :
    BetweenFrames (advanceBurst src s) := by
  obtain ⟨hrow, hcol⟩ := inRange.1 rfl
  obtain ⟨more, e⟩ | ⟨last, more, e⟩ | ⟨-, -, e⟩ := advanceBurst_cases src s
  · obtain ⟨-, col, -⟩ := advanceBurst_column src h.legal more
    rw [e] at col ⊢
    exact h.burstFrom src hrow (col.trans_lt more)
  · obtain ⟨row, -⟩ := advanceBurst_row src h.legal (Nat.le_antisymm hcol last) more
    rw [e] at row ⊢
    exact h.burstFrom src (row.trans_lt more) (rowBytes_le h.legal).1
  · rwa [e]

/-- Every element that is no part of a frame. -/
theorem runMicro (h : BetweenFrames s) {m : Micro} (whole : m.isWhole = true) (inRange : s.InRange m)
    (run : runMicro m s = .next t) : Invariant t := by
  cases m with
  | cs _ | spi _ => cases whole
  | symbol w => cases (exec_decodeSymbol w s).symm.trans run; exact h.startFrame _ _
  | legality => cases run; exact h.checkLegality
  | needImage => cases run; exact h.checkImage
  | rst l => cases run; exact (h.emit (e := .rst l) rfl nofun).toInvariant
  | delay ms => cases run; exact (h.emit (e := .delay ms) rfl nofun).toInvariant
  | waitFree => cases run; exact h.startPoll.toInvariant
  | poll => cases run; exact h.pollOnce (inRange.2 rfl)
  | pollDelay => cases run; exact (h.delayAndRepeat (inRange.2 rfl)).toInvariant
  | burst src => cases run; exact (h.startBurst src).toInvariant
  | burstByte src => exact (h.burstBody inRange run).toInvariant
  | burstNext src => cases run; exact (h.advanceBurst inRange).toInvariant

end BetweenFrames

/-- Between two frames an element is taken off the micro-sequence, and inside a frame its next event is sent. -/
theorem Invariant.runMicro (inv : Invariant s) (busy : s.ready = false) {m : Micro} {rest : List Micro}
    (todo : s.todo = m :: rest) (run : runMicro m (s.withTodo rest) = .next t) : Invariant t := by
  have inRange := inv.inRange
  have whole := inv.whole
  rw [todo, List.forall_mem_cons] at inRange
  rw [todo] at whole
  obtain ⟨hm, hrest⟩ | ⟨b, ms, rfl, rfl⟩ | ⟨b, ms, rfl, rfl⟩ | rfl := todo_cons_cases whole
  · have all : ∀ n ∈ s.todo, n.isWhole = true := todo ▸ List.forall_mem_cons.2 ⟨hm, hrest⟩
    exact (BetweenFrames.withTodo ⟨inv, busy, all⟩ hrest inRange.2).runMicro hm inRange.1 run
  · cases run
    exact inv.emit_withTodo (e := .cs true) (ms := .spi b :: .cs false :: ms) busy (by rw [todo]; rfl) whole inRange.2 nofun
  · cases run
    exact inv.emit_withTodo (e := .spi b) (ms := .cs false :: ms) busy (by rw [todo]; rfl) whole inRange.2 nofun
  · cases run
    have outside : todoPhase rest = .outside := todoPhase_of_whole whole
    exact inv.emit_withTodo (e := .cs false) (ms := rest) busy (by rw [todo, outside]; rfl)
      ((afterFrame_of_whole whole).symm ▸ whole) inRange.2 nofun

end

/-! ## Acceptance (R38) -/

/-- An element that is no part of a frame and inside neither loop. -/
def Micro.isStraight (m : Micro) : Bool := m.isWhole && !m.inBurst && !m.inPoll

theorem Micro.isStraight_iff {m : Micro} :
    m.isStraight = true ↔ m.isWhole = true ∧ m.inBurst = false ∧ m.inPoll = false := by
  simp only [Micro.isStraight, Bool.and_eq_true, Bool.not_eq_true', and_assoc]

theorem lutSequence_straight (c : Config) : (lutSequence c).all Micro.isStraight = true := by
  simp [lutSequence, Micro.isStraight, Micro.isWhole, Micro.inBurst, Micro.inPoll, data, command]

theorem partialSequence_straight (c : Config) : (partialSequence c).all Micro.isStraight = true := by
  simp only [partialSequence, List.all_append, lutSequence_straight]
  rfl

/-- Every request is one `present`, and the micro-sequence it loads is straight. -/
theorem exec_loads_straight {i : Instr} (h : i.isRequest = true) :
    ∃ code o0 o1 o2 o3 body, (∀ s, exec i s = present code o0 o1 o2 o3 body s) ∧
      ∀ s, (body s).all Micro.isStraight = true := by
  cases i with
  | sendCommand b => exact ⟨_, _, _, _, _, _, exec_sendCommand b, fun _ => rfl⟩
  | sendData b => exact ⟨_, _, _, _, _, _, exec_sendData b, fun _ => rfl⟩
  | reset => exact ⟨_, _, _, _, _, _, exec_reset, fun _ => rfl⟩
  | waitFree => exact ⟨_, _, _, _, _, _, exec_waitFree, fun _ => rfl⟩
  | setWindow xs ys xe ye => exact ⟨_, _, _, _, _, _, exec_setWindow xs ys xe ye, fun _ => rfl⟩
  | setCursor x y => exact ⟨_, _, _, _, _, _, exec_setCursor x y, fun _ => rfl⟩
  | sendLut => exact ⟨_, _, _, _, _, _, exec_sendLut, fun s => lutSequence_straight s.cfg⟩
  | on p => exact ⟨_, _, _, _, _, _, exec_on p, fun _ => rfl⟩
  | prepareDisplay => exact ⟨_, _, _, _, _, _, exec_prepareDisplay, fun _ => rfl⟩
  | displayImage f => exact ⟨_, _, _, _, _, _, exec_displayImage f, fun _ => rfl⟩
  | displayBase f => exact ⟨_, _, _, _, _, _, exec_displayBase f, fun _ => rfl⟩
  | displayPartial f => exact ⟨_, _, _, _, _, _, exec_displayPartial f, fun s => partialSequence_straight s.cfg⟩
  | clear color => exact ⟨_, _, _, _, _, _, exec_clear color, fun _ => rfl⟩
  | powerDown => exact ⟨_, _, _, _, _, _, exec_powerDown, fun _ => rfl⟩
  | reservedRequest code => exact ⟨_, _, _, _, _, _, exec_reservedRequest code, fun _ => rfl⟩
  | driverOutputControl | deepSleepMode | dataEntryMode | softwareReset | masterActivation | displayUpdateControl
  | displayUpdateControl2 | writeRamA | writeRamB | writeLut | gateBorderConfig | borderWaveform | setRamXRange
  | setRamYRange | setRamXCounter | setRamYCounter | dataFrame _ | commandFrameRaw _ => cases h

section
variable {s t : State}

theorem Invariant.accept (inv : Invariant s) (ready : s.ready = true) (code : Byte) (o0 o1 o2 o3 : Option Half) :
    BetweenFrames (s.accept code o0 o1 o2 o3) where
  toInvariant := { inv with idle := nofun, races := nofun }
  busy := rfl
  wholeTodo := by
    rw [State.accept_todo, inv.idle ready]
    exact List.forall_mem_nil _

theorem BetweenFrames.load (h : BetweenFrames s) {ms : List Micro} (straight : ms.all Micro.isStraight = true) :
    BetweenFrames (s.withTodo ms) := by
  have all : ∀ m ∈ ms, m.isWhole = true ∧ m.inBurst = false ∧ m.inPoll = false := fun m hm =>
    Micro.isStraight_iff.1 (List.all_eq_true.1 straight m hm)
  exact h.withTodo (fun m hm => (all m hm).1) fun m hm =>
    have ⟨_, burst, poll⟩ := all m hm
    State.inRange_of_outside burst poll

theorem Invariant.exec_request (inv : Invariant s) (ready : s.ready = true) {i : Instr} (hi : i.isRequest = true)
    (h : exec i s = .next t) : Invariant t := by
  obtain ⟨code, o0, o1, o2, o3, body, e, straight⟩ := exec_loads_straight hi
  cases (present_ready ready code o0 o1 o2 o3 body).symm.trans ((e s).symm.trans h)
  exact ((inv.accept ready code o0 o1 o2 o3).load (ms := .legality :: _) (straight _)).toInvariant

/-! ## Steps -/

theorem Invariant.moved (inv : Invariant s) (rest : List HostMove) : Invariant (s.moved rest) := { inv with }

theorem Invariant.steps (inv : Invariant s) (h : Steps s t) : Invariant t := by
  cases h with
  | quiet _ e => exact e ▸ inv
  | accepted i rest ready hi h => exact Invariant.exec_request (s := { s with port := rest }) { inv with } ready hi h
  | completed busy todo e =>
    have noTodo : ∀ m ∈ s.todo, m.isWhole = true := todo ▸ List.forall_mem_nil _
    exact e ▸ BetweenFrames.complete ⟨inv, busy, noTodo⟩ nofun
  | micro m rest busy todo run => exact inv.runMicro busy todo run

theorem Invariant.hostWriteFb (inv : Invariant s) {a : Nat} {v : Byte} (h : hostWriteFb a v s = .next t) : Invariant t := by
  obtain inside | outside := Nat.lt_or_ge a s.cfg.bufLen
  · cases (hostWriteFb_inside inside).symm.trans h
    exact { inv with
      fbWf := Memory.write_wf inv.fbWf a v
      fbInside := Memory.write_inside inv.fbInside inside v
      races := fun ready => (State.written_raced_ready (s := s) ready).trans (inv.races ready) }
  · cases (hostWriteFb_outside outside).symm.trans h

theorem Invariant.coreReset (inv : Invariant s) : Invariant s.coreReset :=
  { invariant_afterReset inv.legal s.draws with fbWf := inv.fbWf, fbInside := inv.fbInside }

end

/-- Settles O52: a step of the core runs one element of a micro-sequence, completes or accepts; the host's moves touch the
framebuffer or reset the core. -/
theorem everyStepKeepsTheInvariant : Obligations.EveryStepKeepsTheInvariant := by
  intro s t inv h
  obtain ⟨rest, h | rfl | ⟨a, v, -, h⟩ | ⟨-, rfl⟩⟩ := step_moved h
  · exact (inv.moved rest).steps h
  · exact inv.moved rest
  · exact (inv.moved rest).hostWriteFb h
  · exact (inv.moved rest).coreReset

end Sys2Proof.Machine

/-!
PROOFS. 41_reset_busy.md: the reset pulse (R120), the busy poll with and without a limit (R121, R124, R125), and that with a limit
every operation completes. The last rests on `State.remaining`, which every step of an operation in progress makes smaller: loops
still to leave, then turns left in the loop, then elements left in the turn.
-/

namespace Sys2Proof.Machine

/-! ## The reset pulse (R120) -/

/-- `RESET` wakes the panel, and otherwise leaves `MACRO` as it is (R41, R120). -/
theorem nextMacroState_reset_deepSleep (m : MacroState) :
    nextMacroState 0x03 m = if m = .deepSleep then .active else m := by
  cases m <;> rfl

/-- Settles O20: `RESET` is legal in every macro-state, and its micro-sequence is the pulse. -/
theorem resetPulsesTheResetLine : Obligations.ResetPulsesTheResetLine := by
  refine ⟨fun _ => rfl, fun s calm => ?_⟩
  obtain ⟨t, plays, pins⟩ := plays_resetPulse (s := s.accept 0x03 none none none none) ⟨calm.legal, rfl, calm.noMoves⟩
  obtain ⟨u, runs, reports, latches, -⟩ := succeeds_of_plays calm exec_reset rfl plays
  rw [nextMacroState_reset_deepSleep, pins.samples] at reports
  rw [pins.rst, pins.cs, pins.dc] at latches
  exact ⟨u, runs, reports, latches⟩

/-! ## The busy poll (R121, R124, R125) -/

/-- Settles O21: `WAIT_FREE` is legal in every macro-state and leaves it as it is; its micro-sequence is one wait. -/
theorem waitFreePollsUntilIdle : Obligations.WaitFreePollsUntilIdle := by
  refine ⟨fun _ => rfl, fun s k rest calm samples admits => ?_⟩
  obtain ⟨t, plays, pins⟩ := plays_wait k (s := s.accept 0x04 none none none none) ⟨calm.legal, rfl, calm.noMoves⟩ samples admits
  obtain ⟨u, runs, reports, latches, lastBusy⟩ := succeeds_of_plays calm exec_waitFree rfl plays
  rw [nextMacroState_of_ne (by decide) (by decide) (by decide), pins.samples] at reports
  rw [pins.rst, pins.cs, pins.dc] at latches
  exact ⟨u, runs, reports, latches, lastBusy.trans pins.lastBusy⟩

theorem count_busyPolls (k : Nat) :
    (Trace.busyPolls k).count (.busy true) = k ∧ (Trace.busyPolls k).count (.delay 10) = k := by
  simp [Trace.busyPolls, List.count_flatten]

/-- A wait that ends at its limit `n` takes `n` samples and makes the delays between them (R124). -/
theorem count_timeout {n : Nat} (positive : n ≠ 0) :
    (Trace.timeout n).count (.busy true) = n ∧ (Trace.timeout n).count (.delay 10) = n - 1 := by
  obtain ⟨samples, delays⟩ := count_busyPolls (n - 1)
  rw [Trace.timeout, List.count_append, List.count_append, samples, delays]
  exact ⟨Nat.sub_add_cancel (Nat.pos_of_ne_zero positive), rfl⟩

/-- Settles O22: nothing is played before the wait, and a limit of 0 is not legal (R5). -/
theorem waitFreeTimesOutAtTheLimit : Obligations.WaitFreeTimesOutAtTheLimit := by
  intro s n rest calm limit samples
  have ⟨_, _, _, _, _, _, notZero⟩ := calm.legal
  exact ⟨timesOut_of_plays calm exec_waitFree rfl rfl (.nil _) limit samples,
    count_timeout fun zero => notZero (zero ▸ limit)⟩

/-- Settles O24: the wait sets `POLLS` to 0, and without a limit any number of busy samples leads back to the poll. -/
theorem unboundedWaitGoesOnWhileBusy : Obligations.UnboundedWaitGoesOnWhileBusy := by
  intro s rest k more legal busy noMoves todo noLimit samples
  have unlimited : ({ s with polls := 0 } : State).admits (0 + k) := fun n limit => nomatch noLimit.symm.trans limit
  obtain ⟨t, keeps, events, -, left, -, -, -, polls⟩ :=
    polls_busy k (s := { s with polls := 0 }) ⟨legal, busy, noMoves⟩ samples unlimited
  have starts : step s = .next (({ s with polls := 0 } : State).withTodo (.poll :: rest)) :=
    Running.step_cons ⟨legal, busy, noMoves⟩ todo
  refine ⟨t.withTodo (.poll :: rest), .step starts (polls rest), rfl, keeps.ready.trans busy, ?_, left, keeps.macroState,
    keeps.result, keeps.eflags⟩
  calc t.events.reverse = ((Trace.busyPolls k).reverse ++ s.events).reverse := congrArg List.reverse events
    _ = s.trace ++ Trace.busyPolls k := by rw [List.reverse_append, List.reverse_reverse, State.trace]

/-! ## What remains of an operation -/

/-- An element before a loop counts 2 and one inside it 1: starting a loop and leaving it both lower the count. -/
def Micro.loops : Micro → Nat
  | .waitFree | .burst _ => 2
  | .poll | .pollDelay | .burstByte _ | .burstNext _ => 1
  | .symbol _ | .cs _ | .spi _ | .legality | .needImage | .rst _ | .delay _ => 0

/-- More than the sum over what an element puts in its place within the same turn of a loop. -/
def Micro.pace : Micro → Nat
  | .burstByte _ => 6
  | .symbol _ => 4
  | .pollDelay => 2
  | .cs _ | .spi _ | .legality | .needImage | .rst _ | .delay _ | .waitFree | .poll | .burst _ | .burstNext _ => 1

/-- The turns left in the loop in progress: busy samples up to the poll limit, and bytes of a burst. -/
def State.turns (s : State) : Nat :=
  (s.cfg.pollLimit.getD 0 - s.polls) + (s.cfg.bufLen - fbAddress s.cfg s.row s.col)

/-- The loop counts of a micro-sequence together. -/
def loopsOf (ms : List Micro) : Nat := (ms.map Micro.loops).sum

/-- The paces of a micro-sequence together. -/
def paceOf (ms : List Micro) : Nat := (ms.map Micro.pace).sum

/-- What remains of an operation, compared from the left. The loops come first: starting one resets its counters, and so may
raise the turns left. -/
def State.remaining (s : State) : Nat ×ₗ Nat ×ₗ Nat := toLex (loopsOf s.todo, toLex (s.turns, paceOf s.todo))

section
variable {s t : State}

theorem turns_lt_of_polls {n : Nat} (limit : s.cfg.pollLimit = some n) (below : s.polls < n) (cfg : t.cfg = s.cfg)
    (polls : t.polls = s.polls + 1) (row : t.row = s.row) (col : t.col = s.col) : t.turns < s.turns := by
  rw [State.turns, State.turns, cfg, polls, row, col, limit, Option.getD_some]
  omega

theorem turns_lt_of_address (cfg : t.cfg = s.cfg) (polls : t.polls = s.polls)
    (inside : fbAddress s.cfg s.row s.col < s.cfg.bufLen)
    (further : fbAddress s.cfg s.row s.col < fbAddress s.cfg t.row t.col) : t.turns < s.turns := by
  rw [State.turns, State.turns, cfg, polls]
  omega

/-! ### The three ways it becomes less

`s` is the state with the element `m` taken off, and `ms` is what `m` puts in its place. -/

section
variable {m : Micro} (ms : List Micro) (todo : t.todo = ms ++ s.todo)
include todo

theorem remaining_lt_of_loops (loops : loopsOf ms < m.loops) : t.remaining < (s.prepend [m]).remaining := by
  refine Prod.Lex.toLex_lt_toLex.2 (.inl ?_)
  simpa [todo, loopsOf] using loops

theorem remaining_lt_of_turns (loops : loopsOf ms = m.loops) (turns : t.turns < s.turns) :
    t.remaining < (s.prepend [m]).remaining := by
  refine Prod.Lex.toLex_lt_toLex.2 (.inr ⟨?_, Prod.Lex.toLex_lt_toLex.2 (.inl turns)⟩)
  simpa [todo, loopsOf] using loops

theorem remaining_lt_of_pace (loops : loopsOf ms = m.loops) (turns : t.turns = s.turns) (pace : paceOf ms < m.pace) :
    t.remaining < (s.prepend [m]).remaining := by
  refine Prod.Lex.toLex_lt_toLex.2 (.inr ⟨?_, Prod.Lex.toLex_lt_toLex.2 (.inr ⟨turns, ?_⟩)⟩)
  · simpa [todo, loopsOf] using loops
  · simpa [todo, paceOf] using pace

end

/-! ## Every element ends the operation or leaves less of it -/

/-- The element `m`, taken off `s`, leads to `t`: the operation has completed, or less of it remains. -/
def Progresses (m : Micro) (s t : State) : Prop := t.ready = true ∨ t.remaining < (s.prepend [m]).remaining

theorem checkLegality_progresses : Progresses .legality s (checkLegality s) := by
  obtain ⟨-, e⟩ | ⟨-, e⟩ := checkLegality_cases s <;> rw [e]
  · exact .inr (remaining_lt_of_pace [] rfl rfl rfl Nat.zero_lt_one)
  · exact .inl rfl

theorem checkImage_progresses : Progresses .needImage s (checkImage s) := by
  obtain ⟨-, e⟩ | ⟨-, e⟩ := checkImage_cases s <;> rw [e]
  · exact .inr (remaining_lt_of_pace [] rfl rfl rfl Nat.zero_lt_one)
  · exact .inl rfl

/-- A sample that reads 0 leaves the loop, and one that reads 1 is a turn of it (R121, R124). -/
theorem pollOnce_progresses {n : Nat} (limit : s.cfg.pollLimit = some n) (below : s.polls < n) :
    Progresses .poll s (pollOnce s) := by
  have todo : s.sample.todo = s.todo := by simp [State.sample]
  obtain ⟨-, e⟩ | ⟨-, -, e⟩ | ⟨-, -, e⟩ := pollOnce_cases s <;> rw [e]
  · exact .inr (remaining_lt_of_loops [] todo Nat.zero_lt_one)
  · exact .inl rfl
  · exact .inr (remaining_lt_of_turns [.pollDelay] (congrArg _ todo) rfl (turns_lt_of_polls limit below
      (by simp [State.sample]) rfl (by simp [State.sample]) (by simp [State.sample])))

/-- With the counters in range the body of a burst does not fault, and leaves a frame and the advance (R150, R74). -/
theorem burstBody_progresses {src : BurstSource} (inside : fbAddress s.cfg s.row s.col < s.cfg.bufLen) :
    ∃ t, burstBody src s = .next t ∧ Progresses (.burstByte src) s t := by
  obtain ⟨c, -, e⟩ | ⟨-, -, e⟩ | ⟨-, outside, -⟩ := burstBody_cases src s
  · exact ⟨_, e, .inr (remaining_lt_of_pace [data c, .burstNext src] rfl rfl rfl (Nat.lt_succ_self 5))⟩
  · exact ⟨_, e, .inr (remaining_lt_of_pace [data _, .burstNext src] rfl rfl rfl (Nat.lt_succ_self 5))⟩
  · exact absurd inside outside.not_gt

/-- The advance is a turn of the loop, to a higher address, or leaves it (R150). -/
theorem advanceBurst_progresses (src : BurstSource) (hl : s.cfg.Legal) (hrow : s.row.toNat < s.cfg.height)
    (hcol : s.col.toNat < s.cfg.rowBytes) : Progresses (.burstNext src) s (advanceBurst src s) := by
  have inside := fbAddress_lt hl hrow hcol
  have cfg : (advanceBurst src s).cfg = s.cfg := advanceBurst_goesOn.keeps.cfg
  obtain ⟨more, e⟩ | ⟨last, more, e⟩ | ⟨-, -, e⟩ := advanceBurst_cases src s
  · obtain ⟨row, col, todo⟩ := advanceBurst_column src hl more
    refine .inr (remaining_lt_of_turns [.burstByte src] todo rfl (turns_lt_of_address cfg (e ▸ rfl) inside ?_))
    rw [fbAddress, fbAddress, row, col]
    omega
  · obtain ⟨row, col, todo⟩ := advanceBurst_row src hl (Nat.le_antisymm hcol last) more
    refine .inr (remaining_lt_of_turns [.burstByte src] todo rfl (turns_lt_of_address cfg (e ▸ rfl) inside ?_))
    rw [fbAddress, fbAddress, row, col, Nat.succ_mul]
    omega
  · rw [e]
    exact .inr (remaining_lt_of_loops [] rfl Nat.zero_lt_one)

/-- Every element of a micro-sequence, with the counters of its loop in range and a poll limit. -/
theorem runMicro_progresses {n : Nat} (hl : s.cfg.Legal) (limit : s.cfg.pollLimit = some n) {m : Micro} (inRange : s.InRange m) :
    ∃ t, runMicro m s = .next t ∧ Progresses m s t := by
  cases m with
  | symbol w =>
    exact ⟨_, exec_decodeSymbol w s,
      .inr (remaining_lt_of_pace [.cs true, .spi (symbolByte w), .cs false] rfl rfl rfl (Nat.lt_succ_self 3))⟩
  | cs _ | spi _ | rst _ | delay _ => exact ⟨_, rfl, .inr (remaining_lt_of_pace [] rfl rfl rfl Nat.zero_lt_one)⟩
  | legality => exact ⟨_, rfl, checkLegality_progresses⟩
  | needImage => exact ⟨_, rfl, checkImage_progresses⟩
  | waitFree => exact ⟨_, rfl, .inr (remaining_lt_of_loops [.poll] rfl Nat.one_lt_two)⟩
  | poll => exact ⟨_, rfl, pollOnce_progresses limit (inRange.2 rfl n limit)⟩
  | pollDelay => exact ⟨_, rfl, .inr (remaining_lt_of_pace [.poll] rfl rfl rfl Nat.one_lt_two)⟩
  | burst src => exact ⟨_, rfl, .inr (remaining_lt_of_loops [.burstByte src] rfl Nat.one_lt_two)⟩
  | burstByte src =>
    obtain ⟨hrow, hcol⟩ := inRange.1 rfl
    exact burstBody_progresses (fbAddress_lt hl hrow hcol)
  | burstNext src =>
    obtain ⟨hrow, hcol⟩ := inRange.1 rfl
    exact ⟨_, rfl, advanceBurst_progresses src hl hrow hcol⟩

/-! ## With a poll limit every operation completes (R124) -/

/-- One step of an operation in progress completes it, or goes on with less of it remaining. -/
theorem Running.step_progresses {n : Nat} (run : Running s) (inv : Invariant s) (limit : s.cfg.pollLimit = some n) :
    ∃ t, Machine.step s = .next t ∧ (t.ready = true ∨ Keeps s t ∧ t.remaining < s.remaining) := by
  cases todo : s.todo with
  | nil => exact ⟨_, run.step_nil todo, .inl rfl⟩
  | cons m rest =>
    have taken : (s.withTodo rest).prepend [m] = s := congrArg s.withTodo todo.symm
    have inRange : (s.withTodo rest).InRange m := inv.inRange m (todo ▸ List.mem_cons_self)
    obtain ⟨t, h, progresses⟩ := runMicro_progresses (s := s.withTodo rest) inv.legal limit inRange
    have hstep := (run.step_cons todo).trans h
    refine ⟨t, hstep, ?_⟩
    obtain ready | less := progresses
    · exact .inl ready
    · rw [taken] at less
      obtain goesOn | ⟨u, k, -, -, rfl⟩ := runMicro_next h
      · exact .inr ⟨.trans (by constructor <;> rfl) goesOn.keeps, less⟩
      · exact .inl rfl

end

/-- Settles O54: by induction on what remains. -/
theorem everyOperationCompletesUnderAPollLimit : Obligations.EveryOperationCompletesUnderAPollLimit := by
  intro s n inv noMoves busy limit
  induction left : s.remaining using WellFoundedLT.induction generalizing s with
  | _ left ih =>
    have run : Running s := ⟨inv.legal, busy, noMoves⟩
    obtain ⟨t, hstep, ready | ⟨keeps, less⟩⟩ := run.step_progresses inv limit
    · exact ⟨t, .one hstep, ready⟩
    · obtain ⟨u, reaches, ready⟩ := ih t.remaining (left ▸ less) t (everyStepKeepsTheInvariant s t inv hstep)
        (keeps.moves.trans noMoves) (keeps.ready.trans busy) ((congrArg Config.pollLimit keeps.cfg).trans limit) rfl
      exact ⟨u, .step hstep reaches, ready⟩

end Sys2Proof.Machine

/-!
PROOFS. 42_addressing.md: `SET_WINDOW` (R130) and `SET_CURSOR` (R131). Both are a list of frames, the second with a wait behind it;
what such a request does is said here once, for any operation that is legal in `Active` alone.
-/

namespace Sys2Proof.Machine

/-! ## Requests that are a list of frames, and frames with a wait behind them -/

/-- The operation of `code` is legal in `Active` alone, and its `OK` completion leaves `MACRO` as it is (R196, R41). -/
structure ActiveOnly (code : Byte) : Prop where
  legal : ∀ m, legalIn code m = decide (m = .active)
  stays : ∀ m, nextMacroState code m = m

theorem ActiveOnly.of_assigned {code : Byte} (assigned : code ∈ assignedCodes)
    (other : code ∉ ([0x03, 0x04, 0x10, 0x15] : List Byte)) : ActiveOnly code := by
  simp only [List.mem_cons, List.not_mem_nil, or_false, not_or] at other
  obtain ⟨notReset, notWait, notPrepare, notPowerDown⟩ := other
  exact ⟨legalIn_active_only assigned (not_or.2 ⟨notReset, not_or.2 ⟨notWait, notPrepare⟩⟩),
    fun _ => nextMacroState_of_ne notPrepare notReset notPowerDown⟩

/-- After at least one frame chip select is inactive and `DC` at the level of the last symbol (R80, R112). -/
theorem FramePins.of_last {ws : List (BitVec 9)} {level : Level} {s t : State} (h : FramePins ws s t)
    (last : ws.getLast?.map symbolLevel = some level) : t.cs = s.cfg.csInactive ∧ t.dc = some level := by
  have nonempty : ws ≠ [] := by
    rintro rfl
    cases last
  exact ⟨h.cs.trans (if_neg nonempty), by rw [h.dc, last, Option.some_or]⟩

section
variable {s : State} {i : Instr} {code : Byte} {o0 o1 o2 o3 : Option Half} {body : State → List Micro}
  (calm : Calm s) (hi : IsRequest i code o0 o1 o2 o3 body) (only : ActiveOnly code)
include calm hi only

theorem ActiveOnly.refused (inactive : s.macroState ≠ .active) : Refused i s :=
  refused_of_illegal calm hi ((only.legal _).trans (decide_eq_false inactive))

theorem ActiveOnly.succeeds (active : s.macroState = .active) {t : State} {es : List Event} {left : List Level} {dc : Option Level}
    (plays : Plays (body (s.accept code o0 o1 o2 o3)) (s.accept code o0 o1 o2 o3) es t) (samples : t.samples = left)
    (rst : t.rst = s.rst) (cs : t.cs = s.cfg.csInactive) (hdc : t.dc = dc) : Succeeds i s .active es left s.rst dc := by
  obtain ⟨u, runs, reports, pins, -⟩ :=
    succeeds_of_plays calm hi ((only.legal _).trans (decide_eq_true active)) plays
  rw [only.stays, active, samples] at reports
  rw [rst, cs, hdc] at pins
  exact ⟨u, runs, reports, pins⟩

variable {ws : List (BitVec 9)} {level : Level} (last : ws.getLast?.map symbolLevel = some level)
include last

/-- A request whose micro-sequence is a list of symbols sends their frames and takes no sample. -/
theorem ActiveOnly.sends_frames (active : s.macroState = .active)
    (hb : body (s.accept code o0 o1 o2 o3) = ws.map .symbol) :
    Succeeds i s .active (ws.flatMap frame) s.samples s.rst (some level) := by
  obtain ⟨t, plays, pins⟩ := plays_symbols ws (s := s.accept code o0 o1 o2 o3) ⟨calm.legal, rfl, calm.noMoves⟩
  obtain ⟨cs, dc⟩ := pins.of_last last
  exact only.succeeds calm hi active (hb ▸ plays) pins.samples pins.rst cs dc

/-- With a wait behind the symbols, the request sends their frames and then completes with `OK` at an idle sample, or with
`SyncTimeout` at the limit (R121, R124). -/
theorem ActiveOnly.sends_frames_and_waits (active : s.macroState = .active)
    (hb : body (s.accept code o0 o1 o2 o3) = ws.map .symbol ++ [.waitFree]) (rest : List Level) :
    (∀ k, s.samples = List.replicate k true ++ false :: rest → s.admits k →
      Succeeds i s .active (ws.flatMap frame ++ Trace.wait k) rest s.rst (some level)) ∧
    (∀ n, s.cfg.pollLimit = some n → s.samples = List.replicate n true ++ rest →
      TimesOut i s (ws.flatMap frame ++ Trace.timeout n) rest) := by
  have run : Running (s.accept code o0 o1 o2 o3) := ⟨calm.legal, rfl, calm.noMoves⟩
  obtain ⟨t, plays, pins⟩ := plays_symbols ws run
  refine ⟨fun k samples admits => ?_, fun n limit samples => ?_⟩
  · have within : t.admits k := fun n limit => admits n ((congrArg Config.pollLimit plays.keeps.cfg).symm.trans limit)
    obtain ⟨v, waits, after⟩ := plays_wait k (run.keeps plays.keeps) (pins.samples.trans samples) within
    obtain ⟨cs, dc⟩ := pins.of_last last
    exact only.succeeds calm hi active (hb ▸ plays.append waits) after.samples (after.rst.trans pins.rst) (after.cs.trans cs)
      (after.dc.trans dc)
  · exact timesOut_of_plays calm hi ((only.legal _).trans (decide_eq_true active)) hb plays limit (pins.samples.trans samples)

end

/-! ## The frames of a window and of a cursor (R130, R131) -/

/-- The symbols of `SET_WINDOW`, both X bytes before the Y bytes (R130). -/
def windowSymbols (xs ys xe ye : Half) : List (BitVec 9) :=
  [commandSymbol 0x44, dataSymbol (windowX xs), dataSymbol (windowX xe),
   commandSymbol 0x45, dataSymbol (lowByte ys), dataSymbol (highByte ys), dataSymbol (lowByte ye), dataSymbol (highByte ye)]

/-- The symbols of `SET_CURSOR`, without its wait (R131). -/
def cursorSymbols (x y : Half) : List (BitVec 9) :=
  [commandSymbol 0x4E, dataSymbol (cursorX x), commandSymbol 0x4F, dataSymbol (lowByte y), dataSymbol (highByte y)]

/-- A window ends with a data frame. -/
theorem windowSymbols_last (xs ys xe ye : Half) : (windowSymbols xs ys xe ye).getLast?.map symbolLevel = some true :=
  congrArg some (symbol_data (highByte ye)).1

/-- A cursor ends with a data frame. -/
theorem cursorSymbols_last (x y : Half) : (cursorSymbols x y).getLast?.map symbolLevel = some true :=
  congrArg some (symbol_data (highByte y)).1

theorem windowSequence_eq (xs ys xe ye : Half) : windowSequence xs ys xe ye = (windowSymbols xs ys xe ye).map .symbol := rfl

theorem cursorSequence_eq (x y : Half) : cursorSequence x y = (cursorSymbols x y).map .symbol ++ [.waitFree] := rfl

theorem frames_windowSymbols (xs ys xe ye : Half) :
    (windowSymbols xs ys xe ye).flatMap frame = Trace.window xs.toNat ys.toNat xe.toNat ye.toNat := by
  simp [windowSymbols, frame_command, frame_data, windowX_eq, lowByte_eq, highByte_eq, Trace.window, Trace.dataBytes,
    Trace.coordinate]

theorem frames_cursorSymbols (x y : Half) : (cursorSymbols x y).flatMap frame = Trace.cursor x.toNat y.toNat := by
  simp [cursorSymbols, frame_command, frame_data, cursorX_eq, lowByte_eq, highByte_eq, Trace.cursor, Trace.dataBytes,
    Trace.coordinate]

/-- The window's trace frame by frame. -/
theorem Trace.window_eq (xs ys xe ye : Nat) :
    Trace.window xs ys xe ye =
      Trace.command 0x44 ++ Trace.data (BitVec.ofNat 8 (xs / 8)) ++ Trace.data (BitVec.ofNat 8 (xe / 8)) ++
      Trace.command 0x45 ++ Trace.data (BitVec.ofNat 8 (ys % 256)) ++ Trace.data (BitVec.ofNat 8 (ys / 256)) ++
      Trace.data (BitVec.ofNat 8 (ye % 256)) ++ Trace.data (BitVec.ofNat 8 (ye / 256)) := by
  simp [Trace.window, Trace.dataBytes, Trace.coordinate]

/-- Settles O25: the operands decode low byte first, and the micro-sequence is the eight symbols, with no wait. -/
theorem setWindowSendsEightFrames : Obligations.SetWindowSendsEightFrames := by
  refine ⟨fun xs ys xe ye more => ?_, fun s xs ys xe ye calm => ?_⟩
  · simp only [← lowByte_eq, ← highByte_eq]
    exact decodeRequest_setWindow xs ys xe ye more
  · have only : ActiveOnly 0x05 := .of_assigned (by decide) (by decide)
    refine ⟨fun active => ?_, only.refused calm (exec_setWindow xs ys xe ye)⟩
    have sends := only.sends_frames calm (exec_setWindow xs ys xe ye) (windowSymbols_last xs ys xe ye) active
      (windowSequence_eq xs ys xe ye)
    rwa [frames_windowSymbols, Trace.window_eq] at sends

/-- Settles O26: the operands decode low byte first, and the micro-sequence is the five symbols with one wait behind them. -/
theorem setCursorSendsFiveFramesAndWaits : Obligations.SetCursorSendsFiveFramesAndWaits := by
  refine ⟨fun x y more => ?_, fun s x y rest calm => ?_⟩
  · simp only [← lowByte_eq, ← highByte_eq]
    exact decodeRequest_setCursor x y more
  · have only : ActiveOnly 0x06 := .of_assigned (by decide) (by decide)
    refine ⟨fun active => ?_, only.refused calm (exec_setCursor x y)⟩
    have sends := only.sends_frames_and_waits calm (exec_setCursor x y) (cursorSymbols_last x y) active
      (cursorSequence_eq x y) rest
    rwa [frames_cursorSymbols] at sends

end Sys2Proof.Machine

/-!
PROOFS. 43_waveform.md: `SEND_LUT` (R140), a command frame and one data frame for each byte of the table, with a wait behind them.
-/

namespace Sys2Proof.Machine

/-- The symbols of `SEND_LUT`, without its wait (R140). -/
def lutSymbols (c : Config) : List (BitVec 9) := commandSymbol 0x32 :: c.lut.toList.map dataSymbol

/-- The table is not empty, so its transfer ends with a data frame. -/
theorem lutSymbols_last (c : Config) : (lutSymbols c).getLast?.map symbolLevel = some true := by
  have nonempty : c.lut.toList ≠ [] := List.ne_nil_of_length_pos (by simp)
  rw [lutSymbols, List.getLast?_cons, List.getLast?_map, List.getLast?_eq_some_getLast nonempty]
  exact congrArg some (symbol_data _).1

theorem lutSequence_eq (c : Config) : lutSequence c = (lutSymbols c).map .symbol ++ [.waitFree] := by
  rw [lutSymbols, List.map_cons, List.map_map]
  rfl

theorem frames_lutSymbols (c : Config) : (lutSymbols c).flatMap frame = Trace.lut c := by
  rw [lutSymbols, List.flatMap_cons, frame_command, flatMap_frame_data, Trace.lut]

/-- Every data frame raises `DC` once (R111). -/
theorem count_dc_dataBytes (bs : List Byte) : (Trace.dataBytes bs).count (.dc true) = bs.length := by
  induction bs with
  | nil => rfl
  | cons b bs ih =>
    have one : (Trace.data b).count (.dc true) = 1 := by simp [Trace.data]
    rw [Trace.dataBytes, List.flatMap_cons, List.count_append, one, ← Trace.dataBytes, ih, List.length_cons, Nat.add_comm]

/-- The transfer of the table has one data frame for each of its 153 bytes; the command frame keeps `DC` low. -/
theorem count_dc_lut (c : Config) : (Trace.lut c).count (.dc true) = 153 := by
  have commandKeepsLow : (Trace.command 0x32).count (.dc true) = 0 := by decide
  rw [Trace.lut, List.count_append, commandKeepsLow, count_dc_dataBytes, Vector.length_toList]

/-- Settles O27: `SEND_LUT` has no operand, and its micro-sequence is the symbols of the table with one wait behind them. -/
theorem sendLutSendsTheWholeTableAndWaits : Obligations.SendLutSendsTheWholeTableAndWaits := by
  refine ⟨fun _ => rfl, fun s rest calm => ?_⟩
  have only : ActiveOnly 0x07 := .of_assigned (by decide) (by decide)
  refine ⟨fun active => ?_, only.refused calm exec_sendLut⟩
  obtain ⟨succeeds, timesOut⟩ := only.sends_frames_and_waits calm exec_sendLut (lutSymbols_last s.cfg) active
    (lutSequence_eq s.cfg) rest
  rw [frames_lutSymbols] at succeeds timesOut
  exact ⟨succeeds, timesOut, count_dc_lut s.cfg⟩

end Sys2Proof.Machine

/-!
PROOFS. 44_refresh.md: `ON` (R151), `PREPARE_DISPLAY` (R152), the display operations (R153 to R155, R158), `CLEAR` (R156) and
`POWER_DOWN` (R157). A micro-sequence is put together of parts: frames, bursts, pulses and waits. `PlaysPart` says what a part
does wherever it stands in an operation, so that parts compose; success and timeout are then read off the composed part.
-/

namespace Sys2Proof.Machine

/-! ## Parts of an operation -/

/-- The levels last driven from `s` to `t`: `rst` on `RST` and `dc` on `DC`, `none` where the pin is not driven. `DC` is driven by
frames alone, and they leave chip select inactive (R80, R112). -/
structure Drives (rst dc : Option Level) (s t : State) : Prop where
  rst : t.rst = rst.or s.rst
  cs : t.cs = if dc.isSome then s.cfg.csInactive else s.cs
  dc : t.dc = dc.or s.dc

/-- The part `ms` of an operation accepted in `a`: from wherever in the operation it is reached, with the samples `taken` to come,
it plays the events `es`, takes those samples, and drives `RST` and `DC` last to `rst` and `dc`. -/
def PlaysPart (a : State) (ms : List Micro) (es : List Event) (taken : List Level) (rst dc : Option Level) : Prop :=
  ∀ s left, Keeps a s → s.samples = taken ++ left → ∃ t, Plays ms s es t ∧ t.samples = left ∧ Drives rst dc s t

theorem Drives.trans {r r' d d' : Option Level} {s t u : State} (cfg : t.cfg = s.cfg) (h : Drives r d s t)
    (k : Drives r' d' t u) : Drives (r'.or r) (d'.or d) s u where
  rst := by rw [k.rst, h.rst, Option.or_assoc]
  cs := by
    rw [k.cs, h.cs, cfg]
    cases d' <;> rfl
  dc := by rw [k.dc, h.dc, Option.or_assoc]

section
variable {a : State} {ms ns : List Micro} {es fs : List Event} {ls ls' : List Level} {r r' d d' : Option Level}

theorem PlaysPart.append (h : PlaysPart a ms es ls r d) (k : PlaysPart a ns fs ls' r' d') :
    PlaysPart a (ms ++ ns) (es ++ fs) (ls ++ ls') (r'.or r) (d'.or d) := by
  intro s left keeps samples
  obtain ⟨t, plays, between, drives⟩ := h s (ls' ++ left) keeps (samples.trans (List.append_assoc ..))
  obtain ⟨u, plays', after, drives'⟩ := k t left (keeps.trans plays.keeps) between
  exact ⟨u, plays.append plays', after, drives.trans plays.keeps.cfg drives'⟩

end

section
variable {a : State} (run : Running a)
include run

/-- Frames (R80). -/
theorem playsPart_symbols (ws : List (BitVec 9)) :
    PlaysPart a (ws.map .symbol) (ws.flatMap frame) [] none (ws.getLast?.map symbolLevel) := by
  intro s left keeps samples
  obtain ⟨t, plays, pins⟩ := plays_symbols ws (run.keeps keeps)
  refine ⟨t, plays, pins.samples.trans samples, pins.rst, pins.cs.trans ?_, pins.dc⟩
  cases ws <;> simp

/-- A burst that no write of the host races (R150). -/
theorem playsPart_burst (cmd : Byte) (src : BurstSource) (notRaced : a.raced = []) :
    PlaysPart a (burstSequence cmd src) (Trace.command cmd ++ (List.range a.cfg.bufLen).flatMap (burstTurn src a.fb)) [] none
      (some true) := by
  intro s left keeps samples
  obtain ⟨t, plays, pins⟩ := plays_burst cmd src (run.keeps keeps) (keeps.raced.trans notRaced)
  rw [keeps.cfg, keeps.fb] at plays
  exact ⟨t, plays, pins.samples.trans samples, pins.rst, pins.cs, pins.dc⟩

/-- A wait with `k` busy samples before the idle one (R121). -/
theorem playsPart_wait {k : Nat} (admits : a.admits k) :
    PlaysPart a [.waitFree] (Trace.wait k) (List.replicate k true ++ [false]) none none := by
  intro s left keeps samples
  have within : s.admits k := fun n limit => admits n ((congrArg Config.pollLimit keeps.cfg).symm.trans limit)
  obtain ⟨t, plays, pins⟩ := plays_wait k (run.keeps keeps) (samples.trans (List.append_assoc ..)) within
  exact ⟨t, plays, pins.samples, pins.rst, pins.cs, pins.dc⟩

/-- The reset pulse leaves `RST` high (R120). -/
theorem playsPart_resetPulse : PlaysPart a resetPulse Trace.resetPulse [] (some true) none := by
  intro s left keeps samples
  obtain ⟨t, plays, pins⟩ := plays_resetPulse (run.keeps keeps)
  exact ⟨t, plays, pins.samples.trans samples, pins.rst, pins.cs, pins.dc⟩

/-- The soft pulse leaves `RST` high (R122). -/
theorem playsPart_softPulse : PlaysPart a softPulse Trace.softPulse [] (some true) none := by
  intro s left keeps samples
  obtain ⟨t, plays, pins⟩ := plays_softPulse (run.keeps keeps)
  exact ⟨t, plays, pins.samples.trans samples, pins.rst, pins.cs, pins.dc⟩

/-- The end of `POWER_DOWN`: a delay, then `RST` low (R157). -/
theorem playsPart_delay_rst (n : Nat) (l : Level) : PlaysPart a [.delay n, .rst l] [.delay n, .rst l] [] (some l) none := by
  intro s left keeps samples
  have delayed := run.keeps (keeps.trans (.emit (.delay n) s))
  exact ⟨_, (plays_delay (run.keeps keeps) n).cons (plays_rst delayed l), samples, rfl, rfl, rfl⟩

/-- The absent-image test of a request whose image is present does nothing (R158). -/
theorem playsPart_needImage (present : bitOperand a.a0 = true) : PlaysPart a [.needImage] [] [] none none := by
  intro s left keeps samples
  have passes (rest : List Micro) : checkImage (s.withTodo rest) = s.withTodo rest :=
    if_pos ((congrArg bitOperand keeps.a0).trans present)
  have plays : Plays [.needImage] s [] s :=
    .micro (run.keeps keeps) (fun rest => congrArg Host.Outcome.next (passes rest)) (.refl s) rfl
  exact ⟨s, plays, samples, rfl, rfl, rfl⟩

end

/-! ## From the parts of an operation to what the host sees -/

section
variable {s : State} {i : Instr} {code : Byte} {o0 o1 o2 o3 : Option Half} {body : State → List Micro}
  (calm : Calm s) (hi : IsRequest i code o0 o1 o2 o3 body)
include calm

theorem Calm.running_accept : Running (s.accept code o0 o1 o2 o3) := ⟨calm.legal, rfl, calm.noMoves⟩

include hi

section
variable {es : List Event} {taken left : List Level} {r d : Option Level} (legal : legalIn code s.macroState = true)
include legal

/-- A legal request whose micro-sequence ends with a frame, or with what drives no pin after one, succeeds. -/
theorem succeeds_of_part {l : Level}
    (part : PlaysPart (s.accept code o0 o1 o2 o3) (body (s.accept code o0 o1 o2 o3)) es taken r (some l))
    (samples : s.samples = taken ++ left) :
    Succeeds i s (nextMacroState code s.macroState) es left (r.or s.rst) (some l) := by
  obtain ⟨t, plays, after, drives⟩ := part _ left (.refl _) samples
  obtain ⟨u, runs, reports, pins, -⟩ := succeeds_of_plays calm hi legal plays
  rw [after] at reports
  rw [drives.rst, drives.cs, drives.dc] at pins
  exact ⟨u, runs, reports, pins⟩

/-- A legal request that reaches a wait whose samples all read 1 up to the limit times out there (R193). -/
theorem timesOut_of_part {ms rest : List Micro} {n : Nat} (hb : body (s.accept code o0 o1 o2 o3) = ms ++ .waitFree :: rest)
    (part : PlaysPart (s.accept code o0 o1 o2 o3) ms es taken r d) (limit : s.cfg.pollLimit = some n)
    (samples : s.samples = taken ++ (List.replicate n true ++ left)) : TimesOut i s (es ++ Trace.timeout n) left := by
  obtain ⟨t, plays, after, -⟩ := part _ _ (.refl _) samples
  exact timesOut_of_plays calm hi legal hb plays limit after

/-- The same with a wait at the end, whose `k` busy samples do not reach the limit (R121). -/
theorem succeeds_after_wait {ms : List Micro} {k : Nat} {l : Level}
    (hb : body (s.accept code o0 o1 o2 o3) = ms ++ [.waitFree])
    (part : PlaysPart (s.accept code o0 o1 o2 o3) ms es taken r (some l)) (admits : s.admits k)
    (samples : s.samples = taken ++ (List.replicate k true ++ false :: left)) :
    Succeeds i s (nextMacroState code s.macroState) (es ++ Trace.wait k) left (r.or s.rst) (some l) :=
  succeeds_of_part calm hi legal (hb ▸ part.append (playsPart_wait calm.running_accept admits)) (by simpa using samples)

/-- A legal request of three parts with a wait behind each: it succeeds where no wait reaches the limit, and times out in the
first that does. -/
theorem succeeds_or_timesOut_of_three_waits {m1 m2 m3 : List Micro} {e1 e2 e3 : List Event}
    {r1 r2 r3 d1 d2 : Option Level} {l : Level}
    (hb : body (s.accept code o0 o1 o2 o3) = m1 ++ .waitFree :: (m2 ++ .waitFree :: (m3 ++ [.waitFree])))
    (p1 : PlaysPart (s.accept code o0 o1 o2 o3) m1 e1 [] r1 d1) (p2 : PlaysPart (s.accept code o0 o1 o2 o3) m2 e2 [] r2 d2)
    (p3 : PlaysPart (s.accept code o0 o1 o2 o3) m3 e3 [] r3 (some l)) {k1 k2 : Nat} (admits1 : s.admits k1)
    (admits2 : s.admits k2) (rest : List Level) :
    (∀ k3, s.admits k3 →
      s.samples = List.replicate k1 true ++ false :: (List.replicate k2 true ++ false ::
        (List.replicate k3 true ++ false :: rest)) →
      Succeeds i s (nextMacroState code s.macroState)
        (e1 ++ Trace.wait k1 ++ e2 ++ Trace.wait k2 ++ e3 ++ Trace.wait k3) rest ((r3.or (r2.or r1)).or s.rst) (some l)) ∧
    (∀ n, s.cfg.pollLimit = some n →
      (s.samples = List.replicate n true ++ rest → TimesOut i s (e1 ++ Trace.timeout n) rest) ∧
      (s.samples = List.replicate k1 true ++ false :: (List.replicate n true ++ rest) →
        TimesOut i s (e1 ++ Trace.wait k1 ++ e2 ++ Trace.timeout n) rest) ∧
      (s.samples = List.replicate k1 true ++ false :: (List.replicate k2 true ++ false :: (List.replicate n true ++ rest)) →
        TimesOut i s (e1 ++ Trace.wait k1 ++ e2 ++ Trace.wait k2 ++ e3 ++ Trace.timeout n) rest)) := by
  have run := calm.running_accept (code := code) (o0 := o0) (o1 := o1) (o2 := o2) (o3 := o3)
  have second := (p1.append (playsPart_wait run admits1)).append p2
  have third := (second.append (playsPart_wait run admits2)).append p3
  refine ⟨fun k3 admits3 samples => ?_, fun n limit => ⟨fun samples => ?_, fun samples => ?_, fun samples => ?_⟩⟩
  · exact succeeds_after_wait calm hi legal (by simpa using hb) third admits3 (by simpa using samples)
  · exact timesOut_of_part calm hi legal hb p1 limit samples
  · exact timesOut_of_part calm hi legal (by simpa using hb) second limit (by simpa using samples)
  · exact timesOut_of_part calm hi legal (by simpa using hb) third limit (by simpa using samples)

end

section
variable (only : ActiveOnly code)
include only

/-- A request that is legal in `Active` alone, with one wait, at its end. -/
theorem ActiveOnly.part_and_wait {ms : List Micro} {es : List Event} {l : Level}
    (hb : body (s.accept code o0 o1 o2 o3) = ms ++ [.waitFree])
    (part : PlaysPart (s.accept code o0 o1 o2 o3) ms es [] none (some l)) (rest : List Level) :
    (s.macroState = .active →
      (∀ k, s.samples = List.replicate k true ++ false :: rest → s.admits k →
        Succeeds i s .active (es ++ Trace.wait k) rest s.rst (some l)) ∧
      (∀ n, s.cfg.pollLimit = some n → s.samples = List.replicate n true ++ rest →
        TimesOut i s (es ++ Trace.timeout n) rest)) ∧
    (s.macroState ≠ .active → Refused i s) := by
  refine ⟨fun active => ?_, only.refused calm hi⟩
  have legal := (only.legal s.macroState).trans (decide_eq_true active)
  refine ⟨fun k samples admits => ?_, fun n limit samples => timesOut_of_part calm hi legal hb part limit samples⟩
  have succeeds := succeeds_after_wait calm hi legal hb part admits samples
  rwa [only.stays, active] at succeeds

/-- A request that is legal in `Active` alone and whose absent-image test fails ends there, before any wire event (R158). -/
theorem ActiveOnly.missingImage {rest : List Micro} (hb : body (s.accept code o0 o1 o2 o3) = .needImage :: rest)
    (absent : bitOperand (s.accept code o0 o1 o2 o3).a0 = false) :
    (s.macroState = .active →
      ∃ u, Runs i s u ∧ Reports s u .missingImage .active 0b0001 [] s.samples ∧ Pins u s.rst s.cs s.dc) ∧
    (s.macroState ≠ .active → Refused i s) := by
  refine ⟨fun active => ?_, only.refused calm hi⟩
  have accepted := (hi s).trans (present_ready calm.ready code o0 o1 o2 o3 body)
  have legal := (only.legal s.macroState).trans (decide_eq_true active)
  rw [hb] at accepted
  have passes : Plays [.legality] (s.accept code o0 o1 o2 o3) [] (s.accept code o0 o1 o2 o3) :=
    .micro calm.running_accept (fun rest => congrArg Host.Outcome.next (if_pos legal)) (.refl _) rfl
  have raises : runMicro .needImage ((s.accept code o0 o1 o2 o3).withTodo rest) =
      .next (((s.accept code o0 o1 o2 o3).withTodo rest).complete .missingImage) :=
    congrArg Host.Outcome.next (if_neg (ne_true_of_eq_false absent))
  have runs := runs_raise (ms := [.legality]) calm.legal calm.noMoves accepted rfl rfl rfl passes raises
  exact ⟨_, runs, ⟨rfl, rfl, active, rfl, (List.append_nil _).symm, rfl, rfl, rfl, rfl⟩, ⟨rfl, rfl, rfl⟩⟩

end
end

/-! ## `ON` (R151) -/

/-- The symbols of `ON`, without its wait. -/
def onSymbols (isPartial : Bool) : List (BitVec 9) :=
  [commandSymbol 0x22, dataSymbol (activationByte isPartial), commandSymbol 0x20]

theorem onSequence_eq (isPartial : Bool) : onSequence isPartial = (onSymbols isPartial).map .symbol ++ [.waitFree] := rfl

theorem frames_onSymbols (isPartial : Bool) :
    (onSymbols isPartial).flatMap frame = Trace.activation (activationByte isPartial) := by
  simp [onSymbols, frame_command, frame_data, Trace.activation]

/-- An activation ends with a command frame. -/
theorem onSymbols_last (isPartial : Bool) : (onSymbols isPartial).getLast?.map symbolLevel = some false :=
  congrArg some (symbol_command 0x20).1

theorem playsPart_activation {a : State} (run : Running a) (isPartial : Bool) :
    PlaysPart a ((onSymbols isPartial).map .symbol) (Trace.activation (activationByte isPartial)) [] none (some false) := by
  have part := playsPart_symbols run (onSymbols isPartial)
  rwa [frames_onSymbols, onSymbols_last] at part

/-- Settles O28: the latch holds the whole operand byte, and the sequence reads bit 0 of it. -/
theorem onSelectsTheWaveformAndActivates : Obligations.OnSelectsTheWaveformAndActivates := by
  refine ⟨fun _ _ => rfl, fun s p rest calm => ?_⟩
  have only : ActiveOnly 0x08 := .of_assigned (by decide) (by decide)
  have sequence : onSequence (bitOperand (zext16 p)) = (onSymbols (p.getLsbD 0)).map .symbol ++ [.waitFree] := by
    rw [bitOperand_zext16, onSequence_eq]
  exact only.part_and_wait calm (exec_on p) sequence (playsPart_activation calm.running_accept _) rest

/-! ## `PREPARE_DISPLAY` (R152) -/

/-- The symbols of `PREPARE_DISPLAY` between its second and its third wait. -/
def prepareSymbols (c : Config) : List (BitVec 9) :=
  [commandSymbol 0x01, dataSymbol c.doc0, dataSymbol c.doc1, dataSymbol c.doc2, commandSymbol 0x11, dataSymbol c.dem] ++
  windowSymbols 0 0 c.lastX c.lastY ++ [commandSymbol 0x21, dataSymbol c.duc0, dataSymbol c.duc1] ++ cursorSymbols 0 0

theorem prepareSequence_eq (c : Config) :
    prepareSequence c = resetPulse ++ .waitFree :: ([commandSymbol 0x12].map .symbol ++
      .waitFree :: ((prepareSymbols c).map .symbol ++ [.waitFree])) := rfl

/-- They end with the cursor. -/
theorem prepareSymbols_last (c : Config) : (prepareSymbols c).getLast?.map symbolLevel = some true := cursorSymbols_last 0 0

/-- The frames of the full window (R133), by exact arithmetic on a legal configuration. -/
theorem frames_fullWindow {c : Config} (h : c.Legal) :
    (windowSymbols 0 0 c.lastX c.lastY).flatMap frame = Trace.window 0 0 (c.width - 1) (c.height - 1) := by
  rw [frames_windowSymbols, lastX_toNat h, lastY_toNat h]
  rfl

theorem frames_prepareSymbols {c : Config} (h : c.Legal) : (prepareSymbols c).flatMap frame = prepareFrames c := by
  rw [prepareSymbols, List.flatMap_append, List.flatMap_append, List.flatMap_append, frames_fullWindow h, frames_cursorSymbols]
  simp [frame_command, frame_data, prepareFrames]

/-- Settles O29: the code is legal everywhere, and its sequence is a pulse, a frame and a list of frames, each with a wait
behind it. -/
theorem prepareDisplayInitialisesThePanel : Obligations.PrepareDisplayInitialisesThePanel := by
  refine ⟨fun _ => rfl, fun s rest k1 k2 calm admits1 admits2 => ?_⟩
  have run : Running (s.accept 0x10 none none none none) := calm.running_accept
  have swReset := playsPart_symbols run [commandSymbol 0x12]
  have frames := playsPart_symbols run (prepareSymbols s.cfg)
  rw [List.flatMap_singleton, frame_command] at swReset
  rw [frames_prepareSymbols calm.legal, prepareSymbols_last] at frames
  exact succeeds_or_timesOut_of_three_waits calm exec_prepareDisplay rfl (prepareSequence_eq s.cfg)
    (playsPart_resetPulse run) swReset frames admits1 admits2 rest

/-! ## The display operations (R153 to R155, R158) and `CLEAR` (R156) -/

section
variable {a : State} (run : Running a) (notRaced : a.raced = [])
include run notRaced

/-- The framebuffer is streamed in address order (R150, R61, R64). -/
theorem playsPart_fbBurst (cmd : Byte) :
    PlaysPart a (burstSequence cmd .framebuffer) (Trace.fbBurst cmd a.fb a.cfg.bufLen) [] none (some true) :=
  playsPart_burst run cmd .framebuffer notRaced

theorem playsPart_constBurst (cmd c : Byte) :
    PlaysPart a (burstSequence cmd (.constant c)) (Trace.constBurst cmd c a.cfg.bufLen) [] none (some true) := by
  have part := playsPart_burst run cmd (.constant c) notRaced
  rwa [burst_constant] at part

end

/-- Settles O30: the image test passes, and a burst and an activation are played to the one wait. -/
theorem displayImageStreamsTheFramebuffer : Obligations.DisplayImageStreamsTheFramebuffer := by
  refine ⟨fun _ _ => rfl, fun s f rest calm present => ?_⟩
  have only : ActiveOnly 0x11 := .of_assigned (by decide) (by decide)
  have run : Running (s.accept 0x11 (some (zext16 f)) none none none) := calm.running_accept
  have part := ((playsPart_needImage run ((bitOperand_zext16 f).trans present)).append
    (playsPart_fbBurst run calm.notRaced 0x24)).append (playsPart_activation run false)
  exact only.part_and_wait calm (exec_displayImage f) rfl part rest

/-- Settles O31: as for `DISPLAY_IMAGE`, with a second burst of the same framebuffer. -/
theorem displayBaseWritesBothBanks : Obligations.DisplayBaseWritesBothBanks := by
  refine ⟨fun _ _ => rfl, fun s f rest calm present => ?_⟩
  have only : ActiveOnly 0x12 := .of_assigned (by decide) (by decide)
  have run : Running (s.accept 0x12 (some (zext16 f)) none none none) := calm.running_accept
  have part := (((playsPart_needImage run ((bitOperand_zext16 f).trans present)).append
    (playsPart_fbBurst run calm.notRaced 0x24)).append (playsPart_fbBurst run calm.notRaced 0x26)).append
    (playsPart_activation run false)
  exact only.part_and_wait calm (exec_displayBase f) rfl part rest

/-- Settles O33: the burst of a constant reads no framebuffer byte. -/
theorem clearFillsTheWindowWithOneByte : Obligations.ClearFillsTheWindowWithOneByte := by
  refine ⟨fun _ _ => rfl, fun s color rest calm => ?_⟩
  have only : ActiveOnly 0x14 := .of_assigned (by decide) (by decide)
  have run : Running (s.accept 0x14 (some (zext16 color)) none none none) := calm.running_accept
  have sequence : clearSequence (lowByte (zext16 color)) =
      (burstSequence 0x24 (.constant color) ++ (onSymbols false).map .symbol) ++ [.waitFree] :=
    congrArg clearSequence (lowByte_zext16 color)
  have part := (playsPart_constBurst run calm.notRaced 0x24 color).append (playsPart_activation run false)
  exact only.part_and_wait calm (exec_clear color) sequence part rest

/-- The symbols of `DISPLAY_PARTIAL` between its first and its second wait (R155). -/
def partialSymbols (c : Config) : List (BitVec 9) :=
  commandSymbol 0x37 :: gateBorderBytes.map dataSymbol ++
  [commandSymbol 0x3C, dataSymbol 0x80, commandSymbol 0x22, dataSymbol 0xC0, commandSymbol 0x20] ++
  windowSymbols 0 0 c.lastX c.lastY ++ cursorSymbols 0 0

theorem partialSequence_eq (c : Config) :
    partialSequence c = ([.needImage] ++ softPulse ++ (lutSymbols c).map .symbol) ++ .waitFree ::
      ((partialSymbols c).map .symbol ++ .waitFree ::
        ((burstSequence 0x24 .framebuffer ++ (onSymbols true).map .symbol) ++ [.waitFree])) := by
  simp [partialSequence, lutSequence_eq, fullWindow, windowSequence_eq, cursorSequence_eq, onSequence_eq, partialSymbols, command,
    data, gateBorderBytes]

theorem frames_partialSymbols {c : Config} (h : c.Legal) : (partialSymbols c).flatMap frame = partialFrames c := by
  rw [partialSymbols, List.flatMap_append, List.flatMap_append, List.flatMap_append, List.flatMap_cons, flatMap_frame_data,
    frames_fullWindow h, frames_cursorSymbols]
  simp [frame_command, frame_data, partialFrames, gateBorderBytes]

/-- Settles O32: the pulse and the table, the frames, and the burst with its activation, with a wait behind each. -/
theorem displayPartialRefreshesWithTheTable : Obligations.DisplayPartialRefreshesWithTheTable := by
  refine ⟨fun _ _ => rfl, fun s f rest k1 k2 calm present admits1 admits2 => ?_⟩
  have only : ActiveOnly 0x13 := .of_assigned (by decide) (by decide)
  refine ⟨fun active => ?_, only.refused calm (exec_displayPartial f)⟩
  have run : Running (s.accept 0x13 (some (zext16 f)) none none none) := calm.running_accept
  have table := playsPart_symbols run (lutSymbols s.cfg)
  have frames := playsPart_symbols run (partialSymbols s.cfg)
  rw [frames_lutSymbols] at table
  rw [frames_partialSymbols calm.legal] at frames
  have first := ((playsPart_needImage run ((bitOperand_zext16 f).trans present)).append (playsPart_softPulse run)).append table
  have last := (playsPart_fbBurst run calm.notRaced 0x24).append (playsPart_activation run true)
  have waits := succeeds_or_timesOut_of_three_waits (e1 := Trace.softPulse ++ Trace.lut s.cfg)
    (e3 := Trace.fbBurst 0x24 s.fb s.cfg.bufLen ++ Trace.activation 0x0F) calm (exec_displayPartial f)
    ((only.legal _).trans (decide_eq_true active)) (partialSequence_eq s.cfg) first frames last admits1 admits2 rest
  rw [only.stays, active] at waits
  simpa only [List.append_assoc, Option.none_or, Option.or_none, Option.some_or] using waits

/-- Settles O35: each of the three sequences begins with the image test. -/
theorem absentImageIsReportedWithoutAnyEvent : Obligations.AbsentImageIsReportedWithoutAnyEvent := by
  intro s f i calm absent hi
  have bit : bitOperand (zext16 f) = false := (bitOperand_zext16 f).trans absent
  simp only [List.mem_cons, List.not_mem_nil, or_false] at hi
  obtain rfl | rfl | rfl := hi
  · exact (ActiveOnly.of_assigned (by decide) (by decide)).missingImage calm (exec_displayImage f) rfl bit
  · exact (ActiveOnly.of_assigned (by decide) (by decide)).missingImage calm (exec_displayBase f) rfl bit
  · exact (ActiveOnly.of_assigned (by decide) (by decide)).missingImage calm (exec_displayPartial f) rfl bit

/-! ## `POWER_DOWN` (R157) -/

/-- Settles O34: two frames and the fall of `RST`, with no wait; completion takes `MACRO` to `DeepSleep`. -/
theorem powerDownPutsThePanelToSleep : Obligations.PowerDownPutsThePanelToSleep := by
  refine ⟨fun _ => rfl, fun s calm => ?_⟩
  have legal : legalIn 0x15 s.macroState = decide (s.macroState = .active) := legalIn_active_only (by decide) (by decide) _
  refine ⟨fun active => ?_, fun inactive => refused_of_illegal calm exec_powerDown (legal.trans (decide_eq_false inactive))⟩
  have run : Running (s.accept 0x15 none none none none) := calm.running_accept
  have frames := playsPart_symbols run [commandSymbol 0x10, dataSymbol 0x01]
  rw [List.flatMap_cons, List.flatMap_singleton, frame_command, frame_data] at frames
  exact succeeds_of_part calm exec_powerDown (legal.trans (decide_eq_true active))
    (frames.append (playsPart_delay_rst run 2000 false)) rfl

end Sys2Proof.Machine

/-!
PROOFS. 45_panel_commands.md: the closure of the opcodes (R186) and the emission matrix (R187). Both speak of the command bytes of
a micro-sequence alone, so these are read off once for each request: `exec_loads_opcodesSent`.
-/

namespace Sys2Proof.Machine

/-! ## The command bytes of a micro-sequence -/

/-- The byte an element sends as a command frame, where it is a command symbol (R80, R110). -/
def Micro.commandByte : Micro → Option Byte
  | .symbol w => if symbolLevel w then none else some (symbolByte w)
  | .cs _ | .spi _ | .legality | .needImage | .rst _ | .delay _ | .waitFree | .poll | .pollDelay | .burst _ | .burstByte _
  | .burstNext _ => none

theorem Micro.commandByte_symbol {w : BitVec 9} (h : symbolLevel w = false) :
    (Micro.symbol w).commandByte = some (symbolByte w) := by
  simp [Micro.commandByte, h]

@[simp] theorem commandByte_command (b : Byte) : (command b).commandByte = some b := by
  obtain ⟨level, byte⟩ := symbol_command b
  rw [command, Micro.commandByte_symbol level, byte]

@[simp] theorem commandByte_data (b : Byte) : (data b).commandByte = none := if_pos (symbol_data b).1

/-- The command symbol of a byte is the one element that sends it as a command. -/
theorem commandByte_eq_some {m : Micro} {b : Byte} : m.commandByte = some b ↔ m = command b := by
  refine ⟨fun h => ?_, fun h => h ▸ commandByte_command b⟩
  cases m with
  | symbol w =>
    cases level : symbolLevel w
    · cases (Micro.commandByte_symbol level).symm.trans h
      exact congrArg Micro.symbol (commandSymbol_symbolByte level).symm
    · cases (if_pos level).symm.trans h
  | cs _ | spi _ | legality | needImage | rst _ | delay _ | waitFree | poll | pollDelay | burst _ | burstByte _ | burstNext _ =>
    cases h

/-- The bytes a micro-sequence sends as commands, in order. -/
def commandBytes (ms : List Micro) : List Byte := ms.filterMap Micro.commandByte

@[simp] theorem commandBytes_nil : commandBytes [] = [] := rfl

@[simp] theorem commandBytes_append (ms ns : List Micro) : commandBytes (ms ++ ns) = commandBytes ms ++ commandBytes ns :=
  List.filterMap_append

@[simp] theorem commandBytes_command_cons (b : Byte) (ms : List Micro) :
    commandBytes (command b :: ms) = b :: commandBytes ms :=
  List.filterMap_cons_some (commandByte_command b)

@[simp] theorem commandBytes_data_cons (b : Byte) (ms : List Micro) : commandBytes (data b :: ms) = commandBytes ms :=
  List.filterMap_cons_none (commandByte_data b)

section
variable (ms : List Micro)

@[simp] theorem commandBytes_legality_cons : commandBytes (.legality :: ms) = commandBytes ms := rfl

@[simp] theorem commandBytes_needImage_cons : commandBytes (.needImage :: ms) = commandBytes ms := rfl

@[simp] theorem commandBytes_waitFree_cons : commandBytes (.waitFree :: ms) = commandBytes ms := rfl

@[simp] theorem commandBytes_rst_cons (l : Level) : commandBytes (.rst l :: ms) = commandBytes ms := rfl

@[simp] theorem commandBytes_delay_cons (n : Nat) : commandBytes (.delay n :: ms) = commandBytes ms := rfl

@[simp] theorem commandBytes_burst_cons (src : BurstSource) : commandBytes (.burst src :: ms) = commandBytes ms := rfl

end

@[simp] theorem commandBytes_map_data (bs : List Byte) : commandBytes (bs.map data) = [] :=
  List.filterMap_eq_nil_iff.2 (List.forall_mem_map.2 fun b _ => commandByte_data b)

theorem mem_commandBytes {ms : List Micro} {w : BitVec 9} (h : .symbol w ∈ ms) (level : symbolLevel w = false) :
    symbolByte w ∈ commandBytes ms :=
  List.mem_filterMap.2 ⟨_, h, Micro.commandByte_symbol level⟩

theorem count_commandSymbol (ms : List Micro) (b : Byte) :
    ms.count (.symbol (commandSymbol b)) = (commandBytes ms).count b := by
  rw [commandBytes, List.count_filterMap, List.count]
  refine List.countP_congr fun m _ => ?_
  rw [beq_iff_eq, beq_iff_eq, commandByte_eq_some, command]

/-! ## The command bytes of each sequence (files 41 to 44) -/

@[simp] theorem commandBytes_windowSequence (xs ys xe ye : Half) : commandBytes (windowSequence xs ys xe ye) = [0x44, 0x45] := by
  simp [windowSequence]

@[simp] theorem commandBytes_cursorSequence (x y : Half) : commandBytes (cursorSequence x y) = [0x4E, 0x4F] := by
  simp [cursorSequence]

@[simp] theorem commandBytes_lutSequence (c : Config) : commandBytes (lutSequence c) = [0x32] := by
  simp [lutSequence]

@[simp] theorem commandBytes_onSequence (isPartial : Bool) : commandBytes (onSequence isPartial) = [0x22, 0x20] := by
  simp [onSequence]

@[simp] theorem commandBytes_burstSequence (cmd : Byte) (src : BurstSource) : commandBytes (burstSequence cmd src) = [cmd] := by
  simp [burstSequence]

@[simp] theorem commandBytes_resetPulse : commandBytes resetPulse = [] := rfl

@[simp] theorem commandBytes_softPulse : commandBytes softPulse = [] := rfl

theorem commandBytes_prepareSequence (c : Config) :
    commandBytes (prepareSequence c) = [0x12, 0x01, 0x11, 0x44, 0x45, 0x21, 0x4E, 0x4F] := by
  simp [prepareSequence, fullWindow]

theorem commandBytes_imageSequence : commandBytes imageSequence = [0x24, 0x22, 0x20] := by
  simp [imageSequence]

theorem commandBytes_baseSequence : commandBytes baseSequence = [0x24, 0x26, 0x22, 0x20] := by
  simp [baseSequence]

theorem commandBytes_partialSequence (c : Config) : commandBytes (partialSequence c) =
    [0x32, 0x37, 0x3C, 0x22, 0x20, 0x44, 0x45, 0x4E, 0x4F, 0x24, 0x22, 0x20] := by
  simp [partialSequence, fullWindow]

theorem commandBytes_clearSequence (color : Byte) : commandBytes (clearSequence color) = [0x24, 0x22, 0x20] := by
  simp [clearSequence]

theorem commandBytes_powerDownSequence : commandBytes powerDownSequence = [0x10] := by
  simp [powerDownSequence]

/-! ## The command bytes each request loads -/

/-- The bytes an operation sends as commands, in the order it sends them (R110, R130, R131, R140, R151 to R157); a wire symbol is no
operation. -/
def opcodesSent : Instr → List Byte
  | .sendCommand b => [b]
  | .setWindow _ _ _ _ => [0x44, 0x45]
  | .setCursor _ _ => [0x4E, 0x4F]
  | .sendLut => [0x32]
  | .on _ => [0x22, 0x20]
  | .prepareDisplay => [0x12, 0x01, 0x11, 0x44, 0x45, 0x21, 0x4E, 0x4F]
  | .displayImage _ | .clear _ => [0x24, 0x22, 0x20]
  | .displayBase _ => [0x24, 0x26, 0x22, 0x20]
  | .displayPartial _ => [0x32, 0x37, 0x3C, 0x22, 0x20, 0x44, 0x45, 0x4E, 0x4F, 0x24, 0x22, 0x20]
  | .powerDown => [0x10]
  | .sendData _ | .reset | .waitFree | .reservedRequest _ | .driverOutputControl | .deepSleepMode | .dataEntryMode | .softwareReset
  | .masterActivation | .displayUpdateControl | .displayUpdateControl2 | .writeRamA | .writeRamB | .writeLut | .gateBorderConfig
  | .borderWaveform | .setRamXRange | .setRamYRange | .setRamXCounter | .setRamYCounter | .dataFrame _ | .commandFrameRaw _ => []

section
variable {s : State} {i : Instr} (hr : s.ready = true)
include hr

/-- The legality check in front of a micro-sequence sends nothing. -/
theorem loads_of_present {code : Byte} {o0 o1 o2 o3 : Option Half} {body : State → List Micro} {bs : List Byte}
    (h : exec i s = present code o0 o1 o2 o3 body s) (hb : commandBytes (body (s.accept code o0 o1 o2 o3)) = bs) :
    ∃ t, exec i s = .next t ∧ commandBytes t.todo = bs :=
  ⟨_, h.trans (present_ready hr code o0 o1 o2 o3 body), (commandBytes_legality_cons _).trans hb⟩

theorem exec_loads_opcodesSent (hi : i.isRequest = true) :
    ∃ t, exec i s = .next t ∧ commandBytes t.todo = opcodesSent i := by
  cases i with
  | sendCommand b =>
    refine loads_of_present hr (exec_sendCommand b s) ?_
    rw [commandBytes_command_cons, commandBytes_nil]
    exact congrArg ([·]) (lowByte_zext16 b)
  | sendData b => exact loads_of_present hr (exec_sendData b s) (commandBytes_data_cons _ _)
  | reset => exact loads_of_present hr (exec_reset s) commandBytes_resetPulse
  | waitFree => exact loads_of_present hr (exec_waitFree s) rfl
  | setWindow xs ys xe ye => exact loads_of_present hr (exec_setWindow xs ys xe ye s) (commandBytes_windowSequence ..)
  | setCursor x y => exact loads_of_present hr (exec_setCursor x y s) (commandBytes_cursorSequence ..)
  | sendLut => exact loads_of_present hr (exec_sendLut s) (commandBytes_lutSequence _)
  | on p => exact loads_of_present hr (exec_on p s) (commandBytes_onSequence _)
  | prepareDisplay => exact loads_of_present hr (exec_prepareDisplay s) (commandBytes_prepareSequence _)
  | displayImage f => exact loads_of_present hr (exec_displayImage f s) commandBytes_imageSequence
  | displayBase f => exact loads_of_present hr (exec_displayBase f s) commandBytes_baseSequence
  | displayPartial f => exact loads_of_present hr (exec_displayPartial f s) (commandBytes_partialSequence _)
  | clear color => exact loads_of_present hr (exec_clear color s) (commandBytes_clearSequence _)
  | powerDown => exact loads_of_present hr (exec_powerDown s) commandBytes_powerDownSequence
  | reservedRequest code => exact loads_of_present hr (exec_reservedRequest code s) rfl
  | driverOutputControl | deepSleepMode | dataEntryMode | softwareReset | masterActivation | displayUpdateControl
  | displayUpdateControl2 | writeRamA | writeRamB | writeLut | gateBorderConfig | borderWaveform | setRamXRange
  | setRamYRange | setRamXCounter | setRamYCounter | dataFrame _ | commandFrameRaw _ => cases hi

theorem commandCounts_of_opcodesSent (hi : i.isRequest = true) :
    commandCounts i s = some (panelOpcodes.map fun b => (opcodesSent i).count b) := by
  obtain ⟨t, e, sent⟩ := exec_loads_opcodesSent hr hi
  rw [commandCounts, e, ← sent]
  exact congrArg some (List.map_congr_left fun b _ => count_commandSymbol t.todo b)

end

/-- `SEND_COMMAND` alone sends an opcode of the host's choice (R93, R186). -/
theorem opcodesSent_subset_panelOpcodes {i : Instr} (other : ∀ b, i ≠ .sendCommand b) : opcodesSent i ⊆ panelOpcodes := by
  cases i
  case sendCommand b => exact absurd rfl (other b)
  all_goals simp [opcodesSent, panelOpcodes]

/-- Settles O39: a command symbol that is loaded carries one of the bytes the operation sends, and these are panel opcodes. -/
theorem sequencesEmitOnlyPanelOpcodes : Obligations.SequencesEmitOnlyPanelOpcodes := by
  intro i s t w hr hi other h loaded level
  obtain ⟨u, e, sent⟩ := exec_loads_opcodesSent hr hi
  cases e.symm.trans h
  exact opcodesSent_subset_panelOpcodes other (sent ▸ mem_commandBytes loaded level)

/-- Settles O40: a column of the matrix counts each opcode in the list of those the operation sends. -/
theorem emissionMatrix : Obligations.EmissionMatrix := by
  intro s f c xs ys xe ye hr
  and_intros
  all_goals exact commandCounts_of_opcodesSent hr rfl

end Sys2Proof.Machine

/-!
PROOFS. 60_exceptions.md: the legality table and its one check (R195, R196), and what a timeout does to the rest of an operation
(R193, R198). What either exception reports is said once, in `Keeps.raise_reports`.
-/

namespace Sys2Proof.Machine

/-! ## What an exception reports (R198) -/

section
variable {s t : State} {es : List Event}

/-- An exception raised in `t`, where an operation has come from `s` with the events `es`: unlike `OK` it leaves `MACRO` alone. -/
theorem Keeps.raise_reports (keeps : Keeps s t) (trace : t.trace = s.trace ++ es) {k : Completion} (raised : k ≠ .ok) :
    Reports s (t.complete k) k s.macroState k.flag es t.samples where
  ready := rfl
  result := rfl
  macroState := (if_neg raised).trans keeps.macroState
  eflags := congrArg (· ||| k.flag) keeps.eflags
  trace := trace
  samples := rfl
  fb := keeps.fb
  cfg := keeps.cfg
  port := keeps.port

end

/-- Settles O23: the poll is the step, and `pollOnce_limit` says that this sample raises. -/
theorem timeoutDropsTheRestOfAnyOperation : Obligations.TimeoutDropsTheRestOfAnyOperation := by
  intro s rest left hl hb hm ht samples limit
  have keeps : Keeps s (({ s with samples := left, polls := s.polls + 1, todo := rest } : State).emit (.busy true)) := by
    constructor <;> rfl
  have raises := (Running.step_cons ⟨hl, hb, hm⟩ ht).trans
    (congrArg Host.Outcome.next (pollOnce_limit (s := s.withTodo rest) samples limit))
  exact ⟨_, raises, rfl, keeps.raise_reports (State.trace_emit _ _) nofun, ⟨rfl, rfl, rfl⟩⟩

/-! ## The legality check of a request (R39, R196) -/

/-- The macro-states in which the table of R196 calls a request legal. A wire symbol is no request. -/
def legalStates : Instr → MacroState → Bool
  | .reset | .waitFree | .prepareDisplay => fun _ => true
  | .sendCommand _ | .sendData _ | .setWindow _ _ _ _ | .setCursor _ _ | .sendLut | .on _ | .displayImage _ | .displayBase _
  | .displayPartial _ | .clear _ | .powerDown => fun m => decide (m = .active)
  | .reservedRequest _ => fun _ => false
  | .driverOutputControl | .deepSleepMode | .dataEntryMode | .softwareReset | .masterActivation | .displayUpdateControl
  | .displayUpdateControl2 | .writeRamA | .writeRamB | .writeLut | .gateBorderConfig | .borderWaveform | .setRamXRange
  | .setRamYRange | .setRamXCounter | .setRamYCounter | .dataFrame _ | .commandFrameRaw _ => fun _ => false

/-- The request `i` is presented with a code whose row of R196 is `legalStates i`, and with a micro-sequence that has no legality
check of its own. -/
def ChecksOnce (i : Instr) : Prop :=
  ∃ code o0 o1 o2 o3 body, IsRequest i code o0 o1 o2 o3 body ∧ (∀ m, legalIn code m = legalStates i m) ∧
    ∀ s, .legality ∉ body s

section
variable {i : Instr} {m : MacroState}

theorem legalStates_iff (hi : i.isRequest = true) : legalStates i m = true ↔
    i = .reset ∨ i = .waitFree ∨ i = .prepareDisplay ∨ (m = .active ∧ ∀ code, i ≠ .reservedRequest code) := by
  cases i with
  | reset | waitFree | prepareDisplay | sendCommand _ | sendData _ | setWindow _ _ _ _ | setCursor _ _ | sendLut | on _
  | displayImage _ | displayBase _ | displayPartial _ | clear _ | powerDown | reservedRequest _ => simp [legalStates]
  | driverOutputControl | deepSleepMode | dataEntryMode | softwareReset | masterActivation | displayUpdateControl
  | displayUpdateControl2 | writeRamA | writeRamB | writeLut | gateBorderConfig | borderWaveform | setRamXRange
  | setRamYRange | setRamXCounter | setRamYCounter | dataFrame _ | commandFrameRaw _ => cases hi

@[simp] theorem legality_ne_command (b : Byte) : Micro.legality ≠ command b := nofun

@[simp] theorem legality_ne_data (b : Byte) : Micro.legality ≠ data b := nofun

@[simp] theorem legality_notMem_map_data (bs : List Byte) : Micro.legality ∉ bs.map data := by
  rw [List.mem_map]
  rintro ⟨b, -, e⟩
  cases e

@[simp] theorem legality_notMem_windowSequence (xs ys xe ye : Half) : .legality ∉ windowSequence xs ys xe ye := by
  simp [windowSequence]

@[simp] theorem legality_notMem_cursorSequence (x y : Half) : .legality ∉ cursorSequence x y := by
  simp [cursorSequence]

@[simp] theorem legality_notMem_lutSequence (c : Config) : .legality ∉ lutSequence c := by
  simp [lutSequence]

@[simp] theorem legality_notMem_onSequence (isPartial : Bool) : .legality ∉ onSequence isPartial := by
  simp [onSequence]

@[simp] theorem legality_notMem_burstSequence (cmd : Byte) (src : BurstSource) : .legality ∉ burstSequence cmd src := by
  simp [burstSequence]

/-- The rows of R196, code by code, and the sequences of files 40 to 44, none of which checks again (R39). -/
theorem checksOnce_of_isRequest (hi : i.isRequest = true) (wellFormed : i.wellFormed = true) : ChecksOnce i := by
  cases i with
  | reset => exact ⟨_, _, _, _, _, _, exec_reset, fun _ => rfl, fun _ => by simp [resetPulse]⟩
  | waitFree => exact ⟨_, _, _, _, _, _, exec_waitFree, fun _ => rfl, fun _ => by simp⟩
  | prepareDisplay =>
    exact ⟨_, _, _, _, _, _, exec_prepareDisplay, fun _ => rfl, fun _ => by simp [prepareSequence, resetPulse, fullWindow]⟩
  | reservedRequest code =>
    have reserved : code ∉ assignedCodes := by simpa [Instr.wellFormed] using wellFormed
    exact ⟨_, _, _, _, _, _, exec_reservedRequest code, legalIn_reserved reserved, fun _ => List.not_mem_nil⟩
  | sendCommand b => exact ⟨_, _, _, _, _, _, exec_sendCommand b, legalIn_active_only (by decide) (by decide), fun _ => by simp⟩
  | sendData b => exact ⟨_, _, _, _, _, _, exec_sendData b, legalIn_active_only (by decide) (by decide), fun _ => by simp⟩
  | setWindow xs ys xe ye =>
    exact ⟨_, _, _, _, _, _, exec_setWindow xs ys xe ye, legalIn_active_only (by decide) (by decide), fun _ => by simp⟩
  | setCursor x y => exact ⟨_, _, _, _, _, _, exec_setCursor x y, legalIn_active_only (by decide) (by decide), fun _ => by simp⟩
  | sendLut => exact ⟨_, _, _, _, _, _, exec_sendLut, legalIn_active_only (by decide) (by decide), fun _ => by simp⟩
  | on p => exact ⟨_, _, _, _, _, _, exec_on p, legalIn_active_only (by decide) (by decide), fun _ => by simp⟩
  | displayImage f =>
    exact ⟨_, _, _, _, _, _, exec_displayImage f, legalIn_active_only (by decide) (by decide), fun _ => by simp [imageSequence]⟩
  | displayBase f =>
    exact ⟨_, _, _, _, _, _, exec_displayBase f, legalIn_active_only (by decide) (by decide), fun _ => by simp [baseSequence]⟩
  | displayPartial f =>
    exact ⟨_, _, _, _, _, _, exec_displayPartial f, legalIn_active_only (by decide) (by decide), fun _ => by
      simp [partialSequence, softPulse, fullWindow]⟩
  | clear color =>
    exact ⟨_, _, _, _, _, _, exec_clear color, legalIn_active_only (by decide) (by decide), fun _ => by simp [clearSequence]⟩
  | powerDown =>
    exact ⟨_, _, _, _, _, _, exec_powerDown, legalIn_active_only (by decide) (by decide), fun _ => by simp [powerDownSequence]⟩
  | driverOutputControl | deepSleepMode | dataEntryMode | softwareReset | masterActivation | displayUpdateControl
  | displayUpdateControl2 | writeRamA | writeRamB | writeLut | gateBorderConfig | borderWaveform | setRamXRange
  | setRamYRange | setRamXCounter | setRamYCounter | dataFrame _ | commandFrameRaw _ => cases hi

end

/-- The step of the check, wherever it stands (R39). -/
theorem Running.step_legality {s : State} (run : Running s) (rest : List Micro) :
    Machine.step (s.withTodo (.legality :: rest)) = .next (checkLegality (s.withTodo rest)) :=
  Running.step_cons (s := s.withTodo (.legality :: rest)) ⟨run.legal, run.busy, run.noMoves⟩ rfl

/-- Settles O17: the check's step is `checkLegality`, which asks the row of the request's code and passes or raises. -/
theorem legalityIsCheckedOnceByTheTable : Obligations.LegalityIsCheckedOnceByTheTable := by
  intro i s t hl hr hm hi wellFormed h
  obtain ⟨code, o0, o1, o2, o3, body, hx, table, unchecked⟩ := checksOnce_of_isRequest hi wellFormed
  cases ((hx s).trans (present_ready hr code o0 o1 o2 o3 body)).symm.trans h
  have run : Running (s.accept code o0 o1 o2 o3) := ⟨hl, rfl, hm⟩
  have checks := run.step_legality (body (s.accept code o0 o1 o2 o3))
  refine ⟨_, rfl, unchecked _, fun legal => ?_, fun notReset notWait notPrepare illegal => ?_⟩
  · have passes : legalIn code s.macroState = true := (table _).trans ((legalStates_iff hi).2 legal)
    exact checks.trans (congrArg Host.Outcome.next (if_pos passes))
  · have fails : legalIn code s.macroState ≠ true := by
      rw [table, ne_eq, legalStates_iff hi]
      rintro (reset | wait | prepare | ⟨active, assigned⟩)
      · exact notReset reset
      · exact notWait wait
      · exact notPrepare prepare
      · exact illegal.elim (· active) fun ⟨_, reserved⟩ => assigned _ reserved
    refine ⟨_, checks.trans (congrArg Host.Outcome.next (if_neg fails)), rfl,
      Keeps.raise_reports ?_ (List.append_nil _).symm nofun, ⟨rfl, rfl, rfl⟩⟩
    constructor <;> rfl

end Sys2Proof.Machine

/-!
PROOFS. 70_reset_and_hazards.md: core reset in any state (R220) and the core that waits (R221).
-/

namespace Sys2Proof.Machine

/-! ## Core reset in any state (R220) -/

/-- Asserting core reset is one step, whatever the core was doing. -/
theorem step_of_coreReset {s : State} (hl : s.cfg.Legal) {rest : List HostMove} (hm : s.moves = .coreReset :: rest) :
    step s = .next (s.moved rest).coreReset :=
  step_of_move hl hm

/-- Settles O10: `State.coreReset` takes nothing from the state but what is not the core's, and so it leaves the values of R42
inside an operation or a frame too. -/
theorem coreResetRestoresResetValues : Obligations.CoreResetRestoresResetValues := by
  intro s rest hl hm
  refine ⟨_, step_of_coreReset hl hm, ?_⟩
  and_intros <;> rfl

/-! ## The core that waits (R221) -/

section
variable {s : State}

theorem acceptNext_of_no_request (hp : s.port = []) : acceptNext s = .next s := by
  rw [acceptNext, hp]
  rfl

theorem step_idle (hl : s.cfg.Legal) (hr : s.ready = true) (hm : s.moves = []) (hp : s.port = []) : step s = .next s :=
  calc step s = coreStep s := step_of_no_moves hl hm
    _ = acceptNext s := coreStep_ready hr
    _ = .next s := acceptNext_of_no_request hp

end

/-- Settles O11: a core fresh from reset is an idle core, and there is nothing it runs by itself. -/
theorem idleCoreDoesNothing : Obligations.IdleCoreDoesNothing :=
  ⟨fun _ => step_idle, fun _ _ hl => ⟨rfl, rfl, rfl, step_idle hl rfl rfl rfl⟩⟩

end Sys2Proof.Machine
